-- ==== Sys2Proof/Word.lean ====
section
/-! DEFINITION. The word of the interface: every command, operand, response and data word is one whole 32-bit word
(30_encoding.md R37, 20_memory.md R28), an unsigned number (00_scope.md R13). -/

namespace Sys2Proof

/-- A 32-bit word of the interface; counters, codes, sizes and spans are words (R11, R47). -/
abbrev Word := BitVec 32

/-- The channel index field of a command word, bits 15:0 (R38). -/
abbrev ChanIndex := BitVec 16

/-- An opaque message payload (R12): a sequence of words of any length, the empty one included.
DESIGN CHOICE (log 2): the spec leaves the type PAYLOAD open; the block only stores and returns it. -/
abbrev Payload := List Word

/-- One bit as a word, `zext_32` of a bit. -/
def bitWord (b : Bool) : Word := if b then 1 else 0

end Sys2Proof
end

