-- ==== Sys2Proof/Config.lean ====
section
/-! DEFINITION. The build parameters of the block (00_scope.md R4 to R12), one record fixed for the whole run, and the
one free value of the model. The record stands in the state, so a statement about every state holds for every build. -/

namespace Sys2Proof

/-- MODE (R8): plain alignment, or CPI assembly layered on it. -/
inductive Mode where
  | align
  | cpi
  deriving DecidableEq, Repr

/-- The build parameters (R4 to R10). PAYLOAD (R12) is the type `Payload`. -/
structure Config where
  /-- N_CHANNELS (R4). -/
  nChannels : Nat
  /-- MAXSIZE_LIMIT (R5). -/
  maxSizeLimit : Word
  /-- DEFAULT_MAX_SIZE (R6). -/
  defaultMaxSize : Word
  /-- DEFAULT_ENABLED (R7). -/
  defaultEnabled : Bool
  /-- MODE (R8). -/
  mode : Mode
  /-- DEFAULT_CPI_SPAN (R9); unused in ALIGN mode. -/
  defaultCpiSpan : Word
  /-- WRAP_THRESHOLD (R10), by default 65536. -/
  wrapThreshold : Word := 65536
  deriving DecidableEq, Repr

/-- The legal builds (R99 (1), with the bounds of R4 to R6 and R9). -/
def Config.legal (c : Config) : Bool :=
  decide (1 ≤ c.nChannels) && decide (c.nChannels ≤ 65536) &&
  decide (c.maxSizeLimit ≠ 0) &&
  decide (c.defaultMaxSize ≠ 0) && decide (c.defaultMaxSize ≤ c.maxSizeLimit) &&
  (decide (c.mode = .align) || decide (c.defaultCpiSpan ≠ 0))

/-- The build whose reset state is `State.reset`: the parameters of vector V-RST-1 of 95_test_vectors.md.
DESIGN CHOICE (log 1), unsafe: the spec leaves every one of them open but WRAP_THRESHOLD. -/
def Config.reference : Config where
  nChannels := 2
  maxSizeLimit := 16
  defaultMaxSize := 8
  defaultEnabled := false
  mode := .cpi
  defaultCpiSpan := 4

/-- Which of the allowed states the k-th relaxed status read shows (R34: "which one is not fixed (a model draws it)").
A FREE VALUE (log 6): it has no body, so nothing can be proved of its value. -/
opaque Config.staleChoice : Nat → Nat

end Sys2Proof
end

