-- ==== Sys2Proof/Syntax.lean ====
section
/-! DEFINITION. The commands of the block (30_encoding.md R39, R42): one constructor per row of spec/opcode_table.json,
the opcodes of the command word, and the transaction in which a command reaches a port. -/

namespace Sys2Proof

/-- The three command ports (20_memory.md R31): P, the producer; S, status and configuration; C, the consumer. -/
inductive Port where
  | producer
  | status
  | consumer
  deriving DecidableEq, Repr

/-- The OP values that select an instruction (R39); SET_ENABLED and SET_MAX_SIZE stand for both their forms. -/
inductive Opcode where
  | addData
  | setEnabled
  | setMaxSize
  | setCpiSpan
  | popFront
  | peek
  | prune
  | readChStatus
  | readGlobal
  | done
  deriving DecidableEq, Repr

/-- The instructions (R42), one constructor per row of the opcode table. -/
inductive Instr where
  /-- ADD_DATA (40_buffer.md R56). -/
  | addData (ch : ChanIndex) (seq code : Word) (payload : Payload)
  /-- SET_ENABLED (R62). -/
  | setEnabled (ch : ChanIndex) (v : Bool)
  /-- SET_ENABLED_ALL (R63). -/
  | setEnabledAll (v : Bool)
  /-- SET_MAX_SIZE (R60). -/
  | setMaxSize (ch : ChanIndex) (n : Word)
  /-- SET_MAX_SIZE_ALL (R61). -/
  | setMaxSizeAll (n : Word)
  /-- SET_CPI_SPAN (42_cpi.md R80). -/
  | setCpiSpan (n : Word)
  /-- POP_FRONT (R57). -/
  | popFront (ch : ChanIndex)
  /-- PEEK (R58). -/
  | peek (ch : ChanIndex) (pos : Word)
  /-- PRUNE (R59). -/
  | prune (ch : ChanIndex) (target : Word)
  /-- READ_CH_STATUS (43_status.md R84). -/
  | readChStatus (ch : ChanIndex)
  /-- READ_GLOBAL (R85). -/
  | readGlobal
  /-- DONE (41_alignment.md R69). -/
  | done (v : Bool)
  deriving DecidableEq, Repr

/-- The opcode of an instruction (R42). -/
def Instr.opcode : Instr → Opcode
  | .addData _ _ _ _ => .addData
  | .setEnabled _ _ => .setEnabled
  | .setEnabledAll _ => .setEnabled
  | .setMaxSize _ _ => .setMaxSize
  | .setMaxSizeAll _ => .setMaxSize
  | .setCpiSpan _ => .setCpiSpan
  | .popFront _ => .popFront
  | .peek _ _ => .peek
  | .prune _ _ => .prune
  | .readChStatus _ => .readChStatus
  | .readGlobal => .readGlobal
  | .done _ => .done

/-- A transaction on a port (R37): the command word, its operand words, and a payload where the OP takes one. -/
structure Transaction where
  cw : Word
  operands : List Word := []
  payload : Option Payload := none
  deriving DecidableEq, Repr

end Sys2Proof
end

