-- ==== Sys2Proof/WellFormed.lean ====
section
/-! DEFINITION. When the operands of a command are legal for a build: no check of 60_exceptions.md R89 after the format
check can fail. Every instruction of `Instr` has an encoding, whatever its operands. -/

namespace Sys2Proof

/-- CH names a channel of the build (30_encoding.md R45). -/
def channelLegal (c : Config) (ch : ChanIndex) : Bool := decide (ch.toNat < c.nChannels)

/-- A legal bound, 1..MAXSIZE_LIMIT (10_state.md R18). -/
def sizeLegal (c : Config) (n : Word) : Bool := decide (n ≠ 0) && decide (n ≤ c.maxSizeLimit)

/-- A legal span, 1..2^32-1 (10_state.md R22). -/
def spanLegal (n : Word) : Bool := decide (n ≠ 0)

/-- The operands of the instruction are legal for the build (R45, R60, R61, R80). -/
def Instr.wellFormed (c : Config) : Instr → Bool
  | .addData ch _ _ _ => channelLegal c ch
  | .setEnabled ch _ => channelLegal c ch
  | .setEnabledAll _ => true
  | .setMaxSize ch n => channelLegal c ch && sizeLegal c n
  | .setMaxSizeAll n => sizeLegal c n
  | .setCpiSpan n => decide (c.mode = .cpi) && spanLegal n
  | .popFront ch => channelLegal c ch
  | .peek ch _ => channelLegal c ch
  | .prune ch _ => channelLegal c ch
  | .readChStatus ch => channelLegal c ch
  | .readGlobal => true
  | .done _ => true

end Sys2Proof
end

