-- ==== Sys2Proof/Decode.lean ====
section
/-! DEFINITION. The decoder of 30_encoding.md, total on any transaction and rejecting by name, then the encoder. -/

namespace Sys2Proof

/-- The OP field, bits 31:28 (R38). -/
def opField (cw : Word) : BitVec 4 := cw.extractLsb' 28 4

/-- The G bit, bit 27 (R38). -/
def gField (cw : Word) : Bool := cw.getLsbD 27

/-- The V bit, bit 26 (R38). -/
def vField (cw : Word) : Bool := cw.getLsbD 26

/-- The reserved field RSV, bits 25:16 (R38). -/
def rsvField (cw : Word) : BitVec 10 := cw.extractLsb' 16 10

/-- The CH field, bits 15:0 (R38). -/
def chField (cw : Word) : ChanIndex := cw.extractLsb' 0 16

/-- The opcode map (R42); `none` for the reserved OP values 0x0 and 0xB to 0xF (R43). -/
def Opcode.ofField (op : BitVec 4) : Option Opcode :=
  match op.toNat with
  | 1 => some .addData
  | 2 => some .setEnabled
  | 3 => some .setMaxSize
  | 4 => some .setCpiSpan
  | 5 => some .popFront
  | 6 => some .peek
  | 7 => some .prune
  | 8 => some .readChStatus
  | 9 => some .readGlobal
  | 10 => some .done
  | _ => none

/-- The OP value of an opcode (R42). -/
def Opcode.field : Opcode → BitVec 4
  | .addData => 0x1
  | .setEnabled => 0x2
  | .setMaxSize => 0x3
  | .setCpiSpan => 0x4
  | .popFront => 0x5
  | .peek => 0x6
  | .prune => 0x7
  | .readChStatus => 0x8
  | .readGlobal => 0x9
  | .done => 0xA

/-- How many operand words an opcode takes (R39). -/
def Opcode.operandWords : Opcode → Nat
  | .addData => 2
  | .setMaxSize => 1
  | .setCpiSpan => 1
  | .peek => 1
  | .prune => 1
  | .setEnabled => 0
  | .popFront => 0
  | .readChStatus => 0
  | .readGlobal => 0
  | .done => 0

/-- Whether an opcode takes a payload (R39). -/
def Opcode.takesPayload (op : Opcode) : Bool := decide (op = .addData)

/-- How many operand words follow a command word; none after a reserved one (R39, R43). -/
def operandWordsOf (cw : Word) : Nat :=
  match Opcode.ofField (opField cw) with
  | some op => op.operandWords
  | none => 0

/-- Whether a payload follows a command word (R39). -/
def takesPayloadOf (cw : Word) : Bool :=
  match Opcode.ofField (opField cw) with
  | some op => op.takesPayload
  | none => false

/-- The transaction carries exactly the operand words and the payload its OP takes (R39). -/
def Transaction.framed (t : Transaction) : Bool :=
  decide (t.operands.length = operandWordsOf t.cw) && decide (t.payload.isSome = takesPayloadOf t.cw)

/-- The opcodes with an all-channel form selected by G (R45). -/
def Opcode.hasGlobalForm (op : Opcode) : Bool := decide (op = .setEnabled) || decide (op = .setMaxSize)

/-- The opcodes that take no channel and need CH = 0 (R45). -/
def Opcode.withoutChannel (op : Opcode) : Bool :=
  decide (op = .setCpiSpan) || decide (op = .readGlobal) || decide (op = .done)

/-- The opcodes in which V = 1 is legal (R46). -/
def Opcode.hasValueBit (op : Opcode) : Bool := decide (op = .setEnabled) || decide (op = .done)

/-- The command word has no format error (R44 to R46). -/
def formatOk (op : Opcode) (cw : Word) : Bool :=
  decide (rsvField cw = 0) &&
  (!gField cw || (op.hasGlobalForm && decide (chField cw = 0))) &&
  (!op.withoutChannel || decide (chField cw = 0)) &&
  (!vField cw || op.hasValueBit)

/-- Why a transaction is no instruction. -/
inductive Reject where
  /-- OP is reserved (R43): answered with ErrOPCODE. -/
  | reservedOpcode
  /-- A format error in a word of opcode `op` (R44 to R46): answered with ErrFORMAT, or ErrPORT where the port comes first. -/
  | format (op : Opcode)
  /-- The transaction has not the words its OP takes; the spec says there is no such transfer (R28, R39; log 9). -/
  | misframed
  deriving DecidableEq, Repr

/-- Operand word k of a transaction (R47: read whole, as an unsigned number). -/
def Transaction.operand (t : Transaction) (k : Nat) : Word := t.operands.getD k 0

/-- The instruction of a framed transaction without format error (R42, R47). -/
def Opcode.assemble (op : Opcode) (t : Transaction) : Instr :=
  let ch := chField t.cw
  let g := gField t.cw
  let v := vField t.cw
  match op with
  | .addData => .addData ch (t.operand 0) (t.operand 1) (t.payload.getD [])
  | .setEnabled => if g then .setEnabledAll v else .setEnabled ch v
  | .setMaxSize => if g then .setMaxSizeAll (t.operand 0) else .setMaxSize ch (t.operand 0)
  | .setCpiSpan => .setCpiSpan (t.operand 0)
  | .popFront => .popFront ch
  | .peek => .peek ch (t.operand 0)
  | .prune => .prune ch (t.operand 0)
  | .readChStatus => .readChStatus ch
  | .readGlobal => .readGlobal
  | .done => .done v

/-- The decoder: the frame is fixed by OP (R39), then a reserved OP (R43), then the format (R44 to R46). MODE plays no
part (R50). -/
def decode (t : Transaction) : Except Reject Instr :=
  if t.framed then
    match Opcode.ofField (opField t.cw) with
    | none => .error .reservedOpcode
    | some op => if formatOk op t.cw then .ok (op.assemble t) else .error (.format op)
  else .error .misframed

/-- The command word of R48: `CW = (OP << 28) | (G << 27) | (V << 26) | ch`. -/
def commandWord (op : Opcode) (g v : Bool) (ch : ChanIndex) : Word :=
  (op.field.setWidth 32 <<< 28) ||| (bitWord g <<< 27) ||| (bitWord v <<< 26) ||| ch.setWidth 32

/-- The encoder (R39, R42, R48). -/
def encode : Instr → Transaction
  | .addData ch seq code payload => ⟨commandWord .addData false false ch, [seq, code], some payload⟩
  | .setEnabled ch v => ⟨commandWord .setEnabled false v ch, [], none⟩
  | .setEnabledAll v => ⟨commandWord .setEnabled true v 0, [], none⟩
  | .setMaxSize ch n => ⟨commandWord .setMaxSize false false ch, [n], none⟩
  | .setMaxSizeAll n => ⟨commandWord .setMaxSize true false 0, [n], none⟩
  | .setCpiSpan n => ⟨commandWord .setCpiSpan false false 0, [n], none⟩
  | .popFront ch => ⟨commandWord .popFront false false ch, [], none⟩
  | .peek ch pos => ⟨commandWord .peek false false ch, [pos], none⟩
  | .prune ch target => ⟨commandWord .prune false false ch, [target], none⟩
  | .readChStatus ch => ⟨commandWord .readChStatus false false ch, [], none⟩
  | .readGlobal => ⟨commandWord .readGlobal false false 0, [], none⟩
  | .done v => ⟨commandWord .done false v 0, [], none⟩

/-- Word k of a number whose bit 0 is bit 0 of its first word. -/
def tableWord (nbits w k : Nat) : Word := BitVec.ofNat 32 ((w % 2 ^ nbits) / 2 ^ (32 * k))

/-- The number of whole words in `nbits` bits, a part of a word counted. -/
def tableWordCount (nbits : Nat) : Nat := (nbits + 31) / 32

/-- The transaction whose words are the bits of w, the bits above nbits being zero. The payload, to which the table
gives no bits, is the words after the operand words (log 20): none for a row of the table. -/
def tableTransaction (nbits w : Nat) : Transaction :=
  let cw := tableWord nbits w 0
  let k := operandWordsOf cw
  { cw := cw
    operands := (List.range k).map (fun j => tableWord nbits w (j + 1))
    payload :=
      if takesPayloadOf cw then
        some ((List.range (tableWordCount nbits - (k + 1))).map (fun j => tableWord nbits w (k + 1 + j)))
      else none }

/-- The instruction the decoder reads from a row of the opcode table: `none` where it refuses. -/
def decodeTableWord (nbits w : Nat) : Option Instr := (decode (tableTransaction nbits w)).toOption

end Sys2Proof
end

