-- ==== Sys2Proof/Machine/State.lean ====
section
/-! DEFINITION. The state of the block (10_state.md, 20_memory.md, 30_encoding.md, 70_reset_and_hazards.md), as plain
data, and its value after reset. -/

namespace Sys2Proof.Machine

/-- A FIFO entry, one message (R15). -/
structure Entry where
  seq : Word
  code : Word
  payload : Payload
  deriving DecidableEq, Repr

/-- The state of one channel (R14, R17, R18, R19). -/
structure Channel where
  /-- Q[i], front first (R14). -/
  queue : List Entry
  /-- NSC[i] (R17). -/
  nsc : Word
  /-- MAXSZ[i] (R18). -/
  maxSize : Word
  /-- EN[i] (R19). -/
  enabled : Bool
  deriving DecidableEq, Repr

/-- The block's one storage space (R26), with the registers of each channel: channel i stands at place i. The entry at
(i, k) is at place k of queue i. There is no byte-addressed memory (log 13). -/
abbrev Memory := List Channel

/-- PHASE (R23). -/
inductive Phase where
  | idle
  | dispatch
  deriving DecidableEq, Repr

/-- DKIND (R23); the fourth encoding is never held (R25). -/
inductive DispatchKind where
  | none
  | aligned
  | cpi
  deriving DecidableEq, Repr

/-- The architectural state of the block: the whole register map of R25. -/
structure Arch where
  /-- Q, NSC, MAXSZ and EN of every channel. -/
  chans : Memory
  /-- CPI_SPAN (R22); absent in ALIGN mode, where it is held as 0 (log 12). -/
  cpiSpan : Word
  /-- PHASE (R23). -/
  phase : Phase
  /-- DKIND (R23). -/
  dkind : DispatchKind
  deriving DecidableEq, Repr

/-- A response (30_encoding.md R37): the response word RW (R40), its data words (R41), and a payload where one is given. -/
structure Response where
  rw : Word
  data : List Word := []
  payload : Option Payload := none
  deriving DecidableEq, Repr

/-- A response and the port on which it is given. -/
structure Reply where
  port : Port
  response : Response
  deriving DecidableEq, Repr

/-- What the outside world does to the block: an agent offers a command on its port (R31), or the block is reset with
the parameters of a new construction (R98). -/
inductive Event where
  | command (port : Port) (t : Transaction)
  | reset (c : Config)
  deriving DecidableEq, Repr

/-- The machine. -/
structure State where
  /-- The build parameters (R4 to R10), changed by nothing but a reset. -/
  cfg : Config
  /-- The registers and queues. -/
  arch : Arch
  /-- Port P's command in progress, the ADD_DATA whose response is withheld (R23, R68, R92). -/
  inProgress : Option Instr
  /-- The architectural states at the atomic-step boundaries from the start of port P's command in progress up to the
  last one before now (R34); empty while none is in progress. -/
  boundaries : List Arch
  /-- The port of the command that is being executed; the model's own field (log 16). -/
  cur : Port
  /-- What the agents offer, in the order in which it is to take effect; a command that may not start yet waits in its
  place (R32); the model's own field (log 4). -/
  inbox : List Event
  /-- The responses given, the oldest first; the model's own field (log 7). -/
  outbox : List Reply
  /-- How many relaxed status reads have drawn a state (R34); the model's own field (log 6). -/
  draws : Nat
  deriving DecidableEq, Repr

/-- Why the machine stops. The block has no traps: every command is answered (60_exceptions.md). -/
inductive Fault where
  /-- Raised by the step (never by an instruction's meaning) on a transaction that does not carry exactly the words its
  OP takes. R28 and R39 say that there is no such transfer. Safe: the model goes no further (log 9). -/
  | misframedTransaction
  deriving DecidableEq, Repr

/-- Why the model refuses. -/
inductive Refusal where
  /-- Raised by an arm of `exec` for an instruction without a meaning; no arm does. Safe. -/
  | notModelled (mnemonic : String)
  /-- Raised by the step on a build, or a reset to a build, whose parameters R99 does not admit: "the block is not
  defined for others and a model refuses such a configuration". Safe (log 10). -/
  | illegalConfiguration
  deriving DecidableEq, Repr

/-- A channel after reset (R97). -/
def Channel.initial (c : Config) : Channel where
  queue := []
  nsc := 0
  maxSize := c.defaultMaxSize
  enabled := c.defaultEnabled

/-- CPI_SPAN after reset (R97): DEFAULT_CPI_SPAN in CPI mode; absent in ALIGN mode, held as 0 (log 12). -/
def initialSpan (c : Config) : Word :=
  match c.mode with
  | .align => 0
  | .cpi => c.defaultCpiSpan

/-- The registers and queues after reset (R97). -/
def Arch.initial (c : Config) : Arch where
  chans := List.replicate c.nChannels (Channel.initial c)
  cpiSpan := initialSpan c
  phase := .idle
  dkind := .none

/-- The machine after a reset with the parameters c (R97), nothing offered and nothing answered. -/
def State.resetWith (c : Config) : State where
  cfg := c
  arch := Arch.initial c
  inProgress := none
  boundaries := []
  cur := .producer
  inbox := []
  outbox := []
  draws := 0

/-- The machine right after reset, with the parameters of `Config.reference` (log 1). -/
def State.reset : State := State.resetWith Config.reference

end Sys2Proof.Machine
end

