-- ==== Sys2Proof/Machine/Flags.lean ====
section
/-! DEFINITION. The bits of the response word (30_encoding.md R40, 60_exceptions.md R87) and the packed data words
(R41). The block has no condition flags (10_state.md R24): these bits are all a command leaves beside the state. -/

namespace Sys2Proof.Machine

/-- The values of STATUS (R87); 7 to 15 are never produced. -/
inductive Status where
  | ok
  | errChannel
  | errRange
  | errOpcode
  | errPort
  | errMode
  | errFormat
  deriving DecidableEq, Repr

/-- The code of a status (R87). -/
def Status.code : Status → BitVec 4
  | .ok => 0
  | .errChannel => 1
  | .errRange => 2
  | .errOpcode => 3
  | .errPort => 4
  | .errMode => 5
  | .errFormat => 6

/-- DISP of the response that completes an ADD_DATA (R40, R69): 1 after an ALIGNED dispatch, 2 after a CPI dispatch. -/
def DispatchKind.disp : DispatchKind → BitVec 2
  | .aligned => 1
  | .none => 2
  | .cpi => 2

/-- The response word (R40): STATUS in 3:0, DISP in 5:4, CB in 6, RB in 7, zeros above. -/
def responseWord (status : Status) (disp : BitVec 2) (cb rb : Bool) : Word :=
  status.code.setWidth 32 ||| (disp.setWidth 32 <<< 4) ||| (bitWord cb <<< 6) ||| (bitWord rb <<< 7)

/-- OK with nothing more (R41). -/
def okResponse : Response := { rw := responseWord .ok 0 false false }

/-- An error response: DISP, CB and RB zero, no data words, no payload (R88). -/
def errorResponse (e : Status) : Response := { rw := responseWord e 0 false false }

/-- OK with the result bit RB (R40). -/
def bitResponse (rb : Bool) : Response := { rw := responseWord .ok 0 false rb }

/-- OK with data words (R41). -/
def dataResponse (data : List Word) : Response := { rw := responseWord .ok 0 false false, data := data }

/-- The answer of POP_FRONT and PEEK (R41): the entry with RB = 1, or RB = 0 with two zero words and no payload. -/
def entryResponse : Option Entry → Response
  | some e => { rw := responseWord .ok 0 false true, data := [e.seq, e.code], payload := some e.payload }
  | none => { rw := responseWord .ok 0 false false, data := [0, 0] }

/-- The answer that completes an ADD_DATA after a dispatch (R69). -/
def dispatchedResponse (kind : DispatchKind) (cb : Bool) : Response :=
  { rw := responseWord .ok kind.disp cb false }

/-- PHASE as a bit (R25). -/
def Phase.bit : Phase → Word
  | .idle => 0
  | .dispatch => 1

/-- DKIND as two bits (R25). -/
def DispatchKind.bits : DispatchKind → Word
  | .none => 0
  | .aligned => 1
  | .cpi => 2

/-- MODE as a bit (R41). -/
def modeBit : Mode → Word
  | .align => 0
  | .cpi => 1

/-- D3 of READ_CH_STATUS (R41): the channel index in 31:16, EMPTY in bit 1, EN in bit 0. -/
def channelStatusWord (ch : ChanIndex) (empty enabled : Bool) : Word :=
  (ch.setWidth 32 <<< 16) ||| (bitWord empty <<< 1) ||| bitWord enabled

/-- D1 of READ_GLOBAL (R41): DKIND in 3:2, PHASE in bit 1, MODE in bit 0. -/
def globalStatusWord (mode : Mode) (phase : Phase) (kind : DispatchKind) : Word :=
  (kind.bits <<< 2) ||| (phase.bit <<< 1) ||| modeBit mode

end Sys2Proof.Machine
end

