-- ==== Sys2Proof/Machine/Queue.lean ====
section
/-! DEFINITION. The ChannelBuffer (40_buffer.md): the wraparound comparison and the primitives on one channel. -/

namespace Sys2Proof.Machine

/-- `older(f, t)` (R51): the front counter f is older than the target t. Comparisons are unsigned; the difference is
read only where t < f, so it never wraps (R13). -/
def older (threshold f t : Word) : Bool :=
  decide (t > f) || (decide (t < f) && decide (f - t > threshold))

/-- What NSC follows (R17): the counter of the front, or the sentinel 0. -/
def frontSeq : List Entry → Word
  | [] => 0
  | e :: _ => e.seq

/-- `PopFront(i)` (R52); it is called on a non-empty queue only. -/
def Channel.popFront (c : Channel) : Channel :=
  { c with queue := c.queue.tail, nsc := frontSeq c.queue.tail }

/-- The loop of `Trim` with at most n turns. -/
def Channel.trimLoop : Nat → Channel → Channel
  | 0, c => c
  | n + 1, c => if c.queue.length > c.maxSize.toNat then Channel.trimLoop n c.popFront else c

/-- `Trim(i)` (R53): pop the front while the queue is longer than MAXSZ. A queue of length n needs at most n turns. -/
def Channel.trim (c : Channel) : Channel := Channel.trimLoop c.queue.length c

/-- The loop of `Prune` with at most n turns. -/
def Channel.pruneLoop (threshold t : Word) : Nat → Channel → Channel
  | 0, c => c
  | n + 1, c =>
    match c.queue with
    | [] => c
    | e :: _ => if older threshold e.seq t then Channel.pruneLoop threshold t n c.popFront else c

/-- The state part of `Prune(i, t)` (R54): pop the front while it is older than t. -/
def Channel.prune (threshold t : Word) (c : Channel) : Channel :=
  Channel.pruneLoop threshold t c.queue.length c

/-- The queue is non-empty and its front counter is t: the bit that `Prune` returns, read after pruning (R54). -/
def Channel.frontIs (c : Channel) (t : Word) : Bool :=
  match c.queue with
  | [] => false
  | e :: _ => decide (e.seq = t)

/-- `Clear(i)` (R55). -/
def Channel.clear (c : Channel) : Channel := { c with queue := [], nsc := 0 }

/-- `Append(i, e)`, with NSC taking the counter where the queue was empty (R56). -/
def Channel.append (c : Channel) (e : Entry) : Channel :=
  { c with queue := c.queue ++ [e], nsc := if c.queue.isEmpty then e.seq else c.nsc }

/-- What ADD_DATA does to its enabled channel before Notify (R56): append, then trim. -/
def Channel.accept (c : Channel) (e : Entry) : Channel := (c.append e).trim

/-- What SET_MAX_SIZE does to a channel (R60): set the bound, then trim. -/
def Channel.setBound (n : Word) (c : Channel) : Channel := Channel.trim { c with maxSize := n }

/-- What SET_ENABLED does to a channel (R62): on a transition clear it and set EN; else nothing. `EnableChanged` is no
action (R64). -/
def Channel.setEnable (v : Bool) (c : Channel) : Channel :=
  if v ≠ c.enabled then { c.clear with enabled := v } else c

/-- The bound, NSC and enable invariants of one channel (R16, R17, R18, R20). -/
def Channel.wf (cfg : Config) (c : Channel) : Bool :=
  decide (c.queue.length ≤ c.maxSize.toNat) && decide (c.nsc = frontSeq c.queue) &&
  sizeLegal cfg c.maxSize && (c.enabled || c.queue.isEmpty)

/-- The form of the storage: N_CHANNELS channels (R4), each with its invariants. Equal memories are equal lists. -/
def Memory.wf (cfg : Config) (m : Memory) : Bool :=
  decide (m.length = cfg.nChannels) && m.all (Channel.wf cfg)

/-- What stands for a channel outside the build. No command reaches it: CH >= N_CHANNELS is ErrCHANNEL (log 14). -/
def Channel.absent : Channel where
  queue := []
  nsc := 0
  maxSize := 0
  enabled := false

/-- Channel i of the storage. -/
def Memory.chan (m : Memory) (i : Nat) : Channel := m[i]?.getD Channel.absent

/-- The entry at (channel i, position k) (R26); `none` where the pair addresses no entry. -/
def Memory.entry (m : Memory) (i k : Nat) : Option Entry := (Memory.chan m i).queue[k]?

/-- Change channel i and no other. -/
def Memory.update (m : Memory) (i : Nat) (f : Channel → Channel) : Memory := m.modify i f

end Sys2Proof.Machine
end

