-- ==== Sys2Proof/Machine/Align.lean ====
section
/-! DEFINITION. The SynchronizationController (41_alignment.md R65, R66): the target and the alignment pass. -/

namespace Sys2Proof.Machine

/-- `newer(v, m)` (R65): v replaces the running maximum m. -/
def newer (threshold v m : Word) : Bool :=
  decide (v > m) || (decide (v < m) && decide (m - v > threshold))

/-- One turn of the fold of `ComputeTarget` (R65); `none` is `have = 0`. -/
def targetStep (threshold : Word) (acc : Option Word) (c : Channel) : Option Word :=
  if c.enabled && decide (c.queue.length > 0) then
    match acc with
    | none => some c.nsc
    | some m => if newer threshold c.nsc m then some c.nsc else some m
  else acc

/-- `ComputeTarget()` (R65), folded in ascending channel order. -/
def computeTarget (threshold : Word) (m : Memory) : Option Word :=
  m.foldl (targetStep threshold) none

/-- Prune an enabled channel to t; leave a disabled one (R66). -/
def pruneEnabled (threshold t : Word) (c : Channel) : Channel :=
  if c.enabled then c.prune threshold t else c

/-- Prune every enabled channel to t (R66). -/
def pruneAll (threshold t : Word) (m : Memory) : Memory := m.map (pruneEnabled threshold t)

/-- Every enabled channel is non-empty with front counter t (R66). -/
def allAt (t : Word) (m : Memory) : Bool := m.all (fun c => !c.enabled || c.frontIs t)

/-- `AlignPass()` (R66): the storage after it and its result. -/
def alignPass (threshold : Word) (m : Memory) : Memory × Bool :=
  match computeTarget threshold m with
  | none => (m, false)
  | some t => (pruneAll threshold t m, allAt t (pruneAll threshold t m))

end Sys2Proof.Machine
end

