-- ==== Sys2Proof/Machine/Assembler.lean ====
section
/-! DEFINITION. The CPIAssembler (42_cpi.md R74 to R79): the check of one channel, the pass over the channels, and the
attempt that the notification makes at most twice. -/

namespace Sys2Proof.Machine

/-- The verdicts of `CpiCheck` (R74 to R76). -/
inductive Verdict where
  | short
  | noBoundary
  | ok
  | rejected
  deriving DecidableEq, Repr

/-- The codes at positions p - 1 and p differ (R75). -/
def codeChangesAt (q : List Entry) (p : Nat) : Bool :=
  decide (q[p]?.map Entry.code ≠ q[p - 1]?.map Entry.code)

/-- The boundary scan (R75): the first position of 1, 2, ..., span at which the code changes. -/
def boundary (q : List Entry) (span : Nat) : Option Nat :=
  (List.range' 1 span).find? (codeChangesAt q)

/-- `CpiCheck(i)` (R74 to R76): the verdict and the channel after it. -/
def cpiCheck (threshold span : Word) (c : Channel) : Verdict × Channel :=
  if c.queue.length ≤ span.toNat then (.short, c)
  else
    match boundary c.queue span.toNat with
    | none => (.noBoundary, c)
    | some p =>
      if p = span.toNat then (.ok, c)
      else
        match c.queue[p]? with
        | some e => (.rejected, c.prune threshold e.seq)
        | none => (.rejected, c)

/-- The channel after the CPI pass: an enabled one is checked, a disabled one skipped (R77). -/
def cpiChannel (threshold span : Word) (c : Channel) : Channel :=
  if c.enabled then (cpiCheck threshold span c).2 else c

/-- The verdict of an enabled channel; `none` for a disabled one (R77). -/
def cpiVerdict (threshold span : Word) (c : Channel) : Option Verdict :=
  if c.enabled then some (cpiCheck threshold span c).1 else none

/-- The storage after `CpiPass()` (R77): every enabled channel is checked, none stops the pass. -/
def cpiPass (threshold span : Word) (m : Memory) : Memory := m.map (cpiChannel threshold span)

/-- `allok` of `CpiPass()` (R77): every enabled channel's verdict is OK. -/
def cpiAllOk (threshold span : Word) (m : Memory) : Bool :=
  m.all (fun c => decide (cpiVerdict threshold span c = none ∨ cpiVerdict threshold span c = some .ok))

/-- `anyrej` of `CpiPass()` (R77): some enabled channel's verdict is REJECTED. -/
def cpiAnyRejected (threshold span : Word) (m : Memory) : Bool :=
  m.any (fun c => decide (cpiVerdict threshold span c = some .rejected))

/-- How one pass of `CpiNotify` ends (R78). -/
inductive Attempt where
  /-- Not aligned, or not ready with no channel rejected: the notification returns. -/
  | stop
  /-- Aligned and every verdict OK. -/
  | dispatch
  /-- Some channel was rejected: one more pass, if this was the first. -/
  | retry
  deriving DecidableEq, Repr

/-- One pass of `CpiNotify` (R78): alignment, then the CPI pass; the storage after it and how it ends. -/
def cpiAttempt (threshold span : Word) (m : Memory) : Memory × Attempt :=
  let (m1, aligned) := alignPass threshold m
  if aligned then
    (cpiPass threshold span m1,
      if cpiAllOk threshold span m1 then .dispatch
      else if cpiAnyRejected threshold span m1 then .retry
      else .stop)
  else (m1, .stop)

/-- `CpiNotify()` without the dispatch entry (R78, R79): at most two passes; whether it dispatches. -/
def cpiNotify (threshold span : Word) (m : Memory) : Memory × Bool :=
  match cpiAttempt threshold span m with
  | (m1, .stop) => (m1, false)
  | (m1, .dispatch) => (m1, true)
  | (m1, .retry) =>
    match cpiAttempt threshold span m1 with
    | (m2, .dispatch) => (m2, true)
    | (m2, .stop) => (m2, false)
    | (m2, .retry) => (m2, false)

end Sys2Proof.Machine
end

