-- ==== Sys2Proof/Machine/Ops.lean ====
section
/-! DEFINITION. The shared operations on the state: access to channels, responses, the notification, the block's one
event (dispatch entry, taken by ADD_DATA, and the return from it, made by DONE), and relaxed status reads. -/

namespace Sys2Proof.Machine

/-- Channel ch of the state. -/
def State.chan (s : State) (ch : ChanIndex) : Channel := Memory.chan s.arch.chans ch.toNat

/-- The entry at (channel i, position k) of the state (R26). -/
def State.entry (s : State) (i k : Nat) : Option Entry := Memory.entry s.arch.chans i k

/-- Replace the storage. -/
def Arch.withChans (a : Arch) (m : Memory) : Arch := { a with chans := m }

/-- Give a response on a port (R37). -/
def State.respond (s : State) (p : Port) (r : Response) : State :=
  { s with outbox := s.outbox ++ [⟨p, r⟩] }

/-- Answer the command in execution with an error: no state changes but that the response is given (R88). -/
def State.raise (s : State) (e : Status) : State := s.respond s.cur (errorResponse e)

/-- Take a new architectural state. While a command of port P is in progress, the state before becomes one of those that
a relaxed read may still show (R34). -/
def State.commit (s : State) (a : Arch) : State :=
  { s with arch := a
           boundaries := if s.inProgress.isSome then s.boundaries ++ [s.arch] else s.boundaries }

/-- `DispatchEnter(kind)` on the registers (R68). -/
def Arch.dispatchEnter (a : Arch) (kind : DispatchKind) : Arch := { a with phase := .dispatch, dkind := kind }

/-- The return from a dispatch on the registers (R69, R93). -/
def Arch.dispatchReturn (a : Arch) : Arch := { a with phase := .idle, dkind := .none }

/-- `Notify()` on the storage (R67): the storage after it and whether it dispatches. -/
def notifyMemory (cfg : Config) (span : Word) (m : Memory) : Memory × Bool :=
  match cfg.mode with
  | .align => alignPass cfg.wrapThreshold m
  | .cpi => cpiNotify cfg.wrapThreshold span m

/-- The kind of the dispatches of a build (R8, R67, R78). -/
def Mode.kind : Mode → DispatchKind
  | .align => .aligned
  | .cpi => .cpi

/-- `Notify()` (R67, R78). -/
def notify (cfg : Config) (a : Arch) : Arch :=
  let r := notifyMemory cfg a.cpiSpan a.chans
  if r.2 then (a.withChans r.1).dispatchEnter (Mode.kind cfg.mode) else a.withChans r.1

/-- Taking the block's event: the ADD_DATA i stays in progress with its response withheld (R68, R92). Nothing else is
saved. The state before i is the first that a relaxed read may show until DONE (R34). -/
def State.enterDispatch (s : State) (i : Instr) (a : Arch) : State :=
  { s with arch := a, inProgress := some i, boundaries := [s.arch] }

/-- The return from it: PHASE and DKIND restored, port P's ADD_DATA complete; nothing else is restored (R69, R93). -/
def State.leaveDispatch (s : State) : State :=
  { s with arch := s.arch.dispatchReturn, inProgress := none, boundaries := [] }

/-- A status read of port S while a command of port P is in progress is relaxed (R34). -/
def State.relaxed (s : State) : Bool := decide (s.cur = .status) && s.inProgress.isSome

/-- The states that a relaxed read may show (R34): every boundary since the command's start, the current one included. -/
def State.candidates (s : State) : List Arch := s.boundaries ++ [s.arch]

/-- The state that a status read shows: the current one, or, where the read is relaxed, the candidate that the free
value `Config.staleChoice` draws (R34; log 6). -/
def State.statusView (s : State) : Arch :=
  if s.relaxed then
    (s.candidates[Config.staleChoice s.draws % s.candidates.length]?).getD s.arch
  else s.arch

/-- The state after a status read: nothing changes but the count of draws. -/
def State.afterRead (s : State) : State :=
  { s with draws := if s.relaxed then s.draws + 1 else s.draws }

end Sys2Proof.Machine
end

