-- ==== Sys2Proof/Machine/Operands.lean ====
section
/-! DEFINITION. The checks of a command's port and operands (60_exceptions.md R87 to R90) in the order of R89. The
opcode and the format are checked where the word is decoded (Decode.lean, Serve.lean). -/

namespace Sys2Proof.Machine

/-- The permission table (R90). Port S's SET_* is accepted here; that it waits for port P is Ports.lean's. -/
def permitted (op : Opcode) (p : Port) (phase : Phase) : Bool :=
  match p, op with
  | .producer, .done => false
  | .producer, _ => true
  | .status, .setEnabled => true
  | .status, .setMaxSize => true
  | .status, .setCpiSpan => true
  | .status, .readChStatus => true
  | .status, .readGlobal => true
  | .status, _ => false
  | .consumer, .popFront => decide (phase = .dispatch)
  | .consumer, .peek => decide (phase = .dispatch)
  | .consumer, .readChStatus => decide (phase = .dispatch)
  | .consumer, .readGlobal => decide (phase = .dispatch)
  | .consumer, .done => decide (phase = .dispatch)
  | .consumer, _ => false

/-- Check (2) of R89: ErrPORT. -/
def checkPort (s : State) (op : Opcode) : Option Status :=
  if permitted op s.cur s.arch.phase then none else some .errPort

/-- Check (4) of R89: ErrMODE, for SET_CPI_SPAN in ALIGN mode (R80). -/
def checkMode (s : State) : Option Status := if s.cfg.mode = .cpi then none else some .errMode

/-- Check (5) of R89: ErrCHANNEL (R45). -/
def checkChannel (s : State) (ch : ChanIndex) : Option Status :=
  if channelLegal s.cfg ch then none else some .errChannel

/-- Check (6) of R89 for a bound: ErrRANGE (R60). -/
def checkSize (s : State) (n : Word) : Option Status := if sizeLegal s.cfg n then none else some .errRange

/-- Check (6) of R89 for a span: ErrRANGE (R80). -/
def checkSpan (n : Word) : Option Status := if spanLegal n then none else some .errRange

/-- The first error of a list of checks (R89). -/
def firstError : List (Option Status) → Option Status
  | [] => none
  | some e :: _ => some e
  | none :: rest => firstError rest

/-- Carry out a command whose checks pass; else answer with the first error and change nothing (R88, R89). -/
def State.guarded (s : State) (checks : List (Option Status)) (effect : State) :
    Host.Outcome State Fault Refusal :=
  match firstError checks with
  | some e => .next (s.raise e)
  | none => .next effect

end Sys2Proof.Machine
end

