-- ==== Sys2Proof/Machine/Buffer.lean ====
section
/-! DEFINITION. The channel buffer family (40_buffer.md R56 to R63). -/

namespace Sys2Proof.Machine

/-- ADD_DATA on an enabled channel: append, trim, Notify; the response is withheld where a dispatch is entered (R56). -/
def State.acceptMessage (s : State) (ch : ChanIndex) (e : Entry) : State :=
  let a := notify s.cfg (s.arch.withChans (Memory.update s.arch.chans ch.toNat (fun c => c.accept e)))
  if a.phase = .dispatch then s.enterDispatch (.addData ch e.seq e.code e.payload) a
  else (s.commit a).respond s.cur okResponse

/-- ADD_DATA (R56). -/
def execAddData (ch : ChanIndex) (seq code : Word) (payload : Payload) (s : State) :
    Host.Outcome State Fault Refusal :=
  s.guarded [checkPort s .addData, checkChannel s ch]
    (if (s.chan ch).enabled then s.acceptMessage ch ⟨seq, code, payload⟩ else s.respond s.cur okResponse)

/-- POP_FRONT (R57). -/
def execPopFront (ch : ChanIndex) (s : State) : Host.Outcome State Fault Refusal :=
  s.guarded [checkPort s .popFront, checkChannel s ch]
    (match (s.chan ch).queue with
      | [] => s.respond s.cur (entryResponse none)
      | e :: _ =>
        (s.commit (s.arch.withChans (Memory.update s.arch.chans ch.toNat Channel.popFront))).respond s.cur
          (entryResponse (some e)))

/-- PEEK (R58). -/
def execPeek (ch : ChanIndex) (pos : Word) (s : State) : Host.Outcome State Fault Refusal :=
  s.guarded [checkPort s .peek, checkChannel s ch]
    (s.respond s.cur (entryResponse (s.entry ch.toNat pos.toNat)))

/-- PRUNE (R59): prune, then answer whether the front is the target. -/
def execPrune (ch : ChanIndex) (target : Word) (s : State) : Host.Outcome State Fault Refusal :=
  s.guarded [checkPort s .prune, checkChannel s ch]
    ((s.commit (s.arch.withChans
        (Memory.update s.arch.chans ch.toNat (fun c => c.prune s.cfg.wrapThreshold target)))).respond s.cur
      (bitResponse (((s.chan ch).prune s.cfg.wrapThreshold target).frontIs target)))

/-- SET_MAX_SIZE (R60). -/
def execSetMaxSize (ch : ChanIndex) (n : Word) (s : State) : Host.Outcome State Fault Refusal :=
  s.guarded [checkPort s .setMaxSize, checkChannel s ch, checkSize s n]
    ((s.commit (s.arch.withChans (Memory.update s.arch.chans ch.toNat (Channel.setBound n)))).respond s.cur okResponse)

/-- SET_MAX_SIZE_ALL (R61). -/
def execSetMaxSizeAll (n : Word) (s : State) : Host.Outcome State Fault Refusal :=
  s.guarded [checkPort s .setMaxSize, checkSize s n]
    ((s.commit (s.arch.withChans (s.arch.chans.map (Channel.setBound n)))).respond s.cur okResponse)

/-- SET_ENABLED (R62). -/
def execSetEnabled (ch : ChanIndex) (v : Bool) (s : State) : Host.Outcome State Fault Refusal :=
  s.guarded [checkPort s .setEnabled, checkChannel s ch]
    ((s.commit (s.arch.withChans (Memory.update s.arch.chans ch.toNat (Channel.setEnable v)))).respond s.cur okResponse)

/-- SET_ENABLED_ALL (R63). -/
def execSetEnabledAll (v : Bool) (s : State) : Host.Outcome State Fault Refusal :=
  s.guarded [checkPort s .setEnabled]
    ((s.commit (s.arch.withChans (s.arch.chans.map (Channel.setEnable v)))).respond s.cur okResponse)

end Sys2Proof.Machine
end

