-- ==== Sys2Proof/Machine/Dispatching.lean ====
section
/-! DEFINITION. The alignment and dispatch family (41_alignment.md): DONE. -/

namespace Sys2Proof.Machine

/-- DONE (R69): OK on port C, then port P's ADD_DATA is answered with DISP and CB. The value v changes no state (R95). -/
def execDone (v : Bool) (s : State) : Host.Outcome State Fault Refusal :=
  s.guarded [checkPort s .done]
    ((s.leaveDispatch.respond s.cur okResponse).respond .producer (dispatchedResponse s.arch.dkind v))

end Sys2Proof.Machine
end

