-- ==== Sys2Proof/Machine/Span.lean ====
section
/-! DEFINITION. The CPI assembly family (42_cpi.md): SET_CPI_SPAN. -/

namespace Sys2Proof.Machine

/-- SET_CPI_SPAN (R80). -/
def execSetCpiSpan (n : Word) (s : State) : Host.Outcome State Fault Refusal :=
  s.guarded [checkPort s .setCpiSpan, checkMode s, checkSpan n]
    ((s.commit { s.arch with cpiSpan := n }).respond s.cur okResponse)

end Sys2Proof.Machine
end

