-- ==== Sys2Proof/Machine/Status.lean ====
section
/-! DEFINITION. The status and observability family (43_status.md R84, R85). -/

namespace Sys2Proof.Machine

/-- The data words D0 to D3 of READ_CH_STATUS (R84, R41) in an architectural state. -/
def channelStatus (a : Arch) (ch : ChanIndex) : List Word :=
  let c := Memory.chan a.chans ch.toNat
  [BitVec.ofNat 32 c.queue.length, c.maxSize, c.nsc, channelStatusWord ch c.queue.isEmpty c.enabled]

/-- The data words D0 to D4 of READ_GLOBAL (R85, R41) in an architectural state. -/
def globalStatus (cfg : Config) (a : Arch) : List Word :=
  [BitVec.ofNat 32 cfg.nChannels, globalStatusWord cfg.mode a.phase a.dkind,
    (if cfg.mode = .cpi then a.cpiSpan else 0), cfg.maxSizeLimit, cfg.wrapThreshold]

/-- READ_CH_STATUS (R84); relaxed on port S while a command of port P is in progress (R34). -/
def execReadChStatus (ch : ChanIndex) (s : State) : Host.Outcome State Fault Refusal :=
  s.guarded [checkPort s .readChStatus, checkChannel s ch]
    (s.afterRead.respond s.cur (dataResponse (channelStatus s.statusView ch)))

/-- READ_GLOBAL (R85); relaxed on port S while a command of port P is in progress (R34). -/
def execReadGlobal (s : State) : Host.Outcome State Fault Refusal :=
  s.guarded [checkPort s .readGlobal]
    (s.afterRead.respond s.cur (dataResponse (globalStatus s.cfg s.statusView)))

end Sys2Proof.Machine
end

