-- ==== Sys2Proof/Machine/Dispatch.lean ====
section
/-! DEFINITION. One arm per instruction, each the call of its meaning. -/

namespace Sys2Proof.Machine

def exec (i : Instr) (s : State) : Host.Outcome State Fault Refusal :=
  match i with
  | .addData ch seq code payload => Sys2Proof.Machine.execAddData ch seq code payload s
  | .setEnabled ch v => Sys2Proof.Machine.execSetEnabled ch v s
  | .setEnabledAll v => Sys2Proof.Machine.execSetEnabledAll v s
  | .setMaxSize ch n => Sys2Proof.Machine.execSetMaxSize ch n s
  | .setMaxSizeAll n => Sys2Proof.Machine.execSetMaxSizeAll n s
  | .setCpiSpan n => Sys2Proof.Machine.execSetCpiSpan n s
  | .popFront ch => Sys2Proof.Machine.execPopFront ch s
  | .peek ch pos => Sys2Proof.Machine.execPeek ch pos s
  | .prune ch target => Sys2Proof.Machine.execPrune ch target s
  | .readChStatus ch => Sys2Proof.Machine.execReadChStatus ch s
  | .readGlobal => Sys2Proof.Machine.execReadGlobal s
  | .done v => Sys2Proof.Machine.execDone v s

end Sys2Proof.Machine
end

