-- ==== Sys2Proof/Machine/Ports.lean ====
section
/-! DEFINITION. The ports (20_memory.md R31, R32): which of the offered events takes effect next. The order of the inbox
is the order in which the commands take effect, but that a command which may not start yet waits in its place; so an
inbox ranges over every interleaving of whole commands (log 4). -/

namespace Sys2Proof.Machine

/-- The state-changing commands of port S, the SET_* (R32), told by their OP (log 5). -/
def isConfigWrite (t : Transaction) : Bool :=
  match Opcode.ofField (opField t.cw) with
  | some .setEnabled => true
  | some .setMaxSize => true
  | some .setCpiSpan => true
  | _ => false

/-- Whether an offered event may take effect now. `busy`: a command of port P is in progress. `held`: an earlier command
of port S is held, so that port S has its one outstanding command already (R31). -/
def mayStart (busy held : Bool) : Event → Bool
  | .command .producer _ => !busy
  | .command .status t => !held && !(busy && isConfigWrite t)
  | .command .consumer _ => true
  | .reset _ => true

/-- The event is a command of port S. -/
def Event.onPortS : Event → Bool
  | .command .status _ => true
  | _ => false

/-- The event that takes effect next, with those that wait before it and those after it. -/
structure Picked where
  waiting : List Event
  event : Event
  later : List Event
  deriving DecidableEq, Repr

/-- The first offered event that may take effect (R32). -/
def pickEvent (busy : Bool) : Bool → List Event → Option Picked
  | _, [] => none
  | held, e :: rest =>
    if mayStart busy held e then some ⟨[], e, rest⟩
    else
      match pickEvent busy (held || e.onPortS) rest with
      | some k => some ⟨e :: k.waiting, k.event, k.later⟩
      | none => none

/-- The next event of a state. -/
def State.nextEvent (s : State) : Option Picked := pickEvent s.inProgress.isSome false s.inbox

/-- The state in which the command of a picked event is executed on port p. -/
def State.atPort (s : State) (p : Port) (k : Picked) : State :=
  { s with cur := p, inbox := k.waiting ++ k.later }

/-- A reset with the parameters c (R98): every item takes its reset value; work in progress and the commands that wait
are abandoned without a response; what is offered later stays offered, and responses given stay given (log 11). -/
def State.resetTo (s : State) (c : Config) (k : Picked) : State :=
  { State.resetWith c with inbox := k.later, outbox := s.outbox }

/-- The port that may issue a command at once: port P, but port C for DONE and while port P is busy (log 15). -/
def State.freePort (s : State) (t : Transaction) : Port :=
  if decide (Opcode.ofField (opField t.cw) = some .done) || s.inProgress.isSome then .consumer else .producer

/-- Offer a transaction before everything else, on a port from which the next step takes it. -/
def State.offer (s : State) (t : Transaction) : State :=
  { s with inbox := .command (s.freePort t) t :: s.inbox }

end Sys2Proof.Machine
end

