-- ==== Sys2Proof/Machine/Serve.lean ====
section
/-! DEFINITION. Serving one command of a port: decode, the checks (1) to (3) of 60_exceptions.md R89, then the meaning. -/

namespace Sys2Proof.Machine

/-- Serve a transaction on the current port (R89): ErrOPCODE first, then ErrPORT before ErrFORMAT; a word without a
format error is an instruction, whose meaning makes the remaining checks, ErrPORT first. -/
def serve (t : Transaction) (s : State) : Host.Outcome State Fault Refusal :=
  match decode t with
  | .ok i => exec i s
  | .error .reservedOpcode => .next (s.raise .errOpcode)
  | .error (.format op) => s.guarded [checkPort s op, some .errFormat] s
  | .error .misframed => .fault .misframedTransaction

/-- Let the next event take effect. With none that may, the block waits and nothing changes (R31, R103; log 8). -/
def advance (s : State) : Host.Outcome State Fault Refusal :=
  match s.nextEvent with
  | none => .next s
  | some k =>
    match k.event with
    | .command p t => serve t (s.atPort p k)
    | .reset c => if c.legal then .next (s.resetTo c k) else .refused .illegalConfiguration

end Sys2Proof.Machine
end

