-- ==== Sys2Proof/Machine/Step.lean ====
section
/-! DEFINITION. One step of the block, and the placing of a command for the next step. -/

namespace Sys2Proof.Machine

/-- One step: one atomic step of the block (R29). A build that R99 does not admit is refused. -/
def step (s : State) : Host.Outcome State Fault Refusal :=
  if s.cfg.legal then advance s else .refused .illegalConfiguration

/-- The state in which the agent of a free port offers the instruction whose bits are w, before everything else offered:
the next step runs it (log 15). -/
def State.withFetchWord (s : State) (nbits w : Nat) : State := s.offer (tableTransaction nbits w)

end Sys2Proof.Machine
end

