-- ==== Sys2Proof/Safety.lean ====
section
/-! DEFINITION. What the statements speak of: the invariants that the spec states for every state (R16 to R23), the
frames of commands, and what it is for what the agents offer to be a use of the interface. -/

namespace Sys2Proof.Machine

/-- CPI_SPAN holds a legal value in CPI mode (R22), and 0 in ALIGN mode, where it is absent (log 12). -/
def spanWf (cfg : Config) (span : Word) : Bool :=
  match cfg.mode with
  | .align => decide (span = 0)
  | .cpi => spanLegal span

/-- PHASE and DKIND agree (R23): IDLE with NONE, DISPATCH with the kind of the build (R8, R67, R78). -/
def phaseWf (cfg : Config) (phase : Phase) (kind : DispatchKind) : Bool :=
  match phase with
  | .idle => decide (kind = .none)
  | .dispatch => decide (kind = Mode.kind cfg.mode)

/-- The register map is as R25 says. -/
def Arch.wf (cfg : Config) (a : Arch) : Bool :=
  Memory.wf cfg a.chans && spanWf cfg a.cpiSpan && phaseWf cfg a.phase a.dkind

/-- Port P's command in progress is an ADD_DATA, and there is one exactly while PHASE = DISPATCH (R23). -/
def progressWf (phase : Phase) : Option Instr → Bool
  | none => decide (phase = .idle)
  | some (.addData _ _ _ _) => decide (phase = .dispatch)
  | some _ => false

/-- The invariant of the machine: a legal build (R99), the register map (R25), the command in progress (R23), and
boundary states, each with the invariants of R16 and R17, only while a command is in progress (R34). -/
def State.inv (s : State) : Bool :=
  s.cfg.legal && Arch.wf s.cfg s.arch && progressWf s.arch.phase s.inProgress &&
  (s.inProgress.isSome || s.boundaries.isEmpty) && s.boundaries.all (Arch.wf s.cfg)

/-- An offered event is a use of the interface: a transaction with the words its OP takes (R39), or a reset to a legal
build (R99). -/
def Event.proper : Event → Bool
  | .command _ t => t.framed
  | .reset c => c.legal

/-- Everything the agents offer is a use of the interface. -/
def State.properInbox (s : State) : Bool := s.inbox.all Event.proper

/-- The queue of channel i. -/
def State.queue (s : State) (i : Nat) : List Entry := (Memory.chan s.arch.chans i).queue

/-- The channel a command names (R45), if it takes one. -/
def channelOf : Instr → Option ChanIndex
  | .addData ch _ _ _ => some ch
  | .setEnabled ch _ => some ch
  | .setMaxSize ch _ => some ch
  | .popFront ch => some ch
  | .peek ch _ => some ch
  | .prune ch _ => some ch
  | .readChStatus ch => some ch
  | .setEnabledAll _ => none
  | .setMaxSizeAll _ => none
  | .setCpiSpan _ => none
  | .readGlobal => none
  | .done _ => none

/-- The permission table of R90, written out: the command of opcode op may be issued on port p in this phase. That port
S's SET_* then wait for port P's command is said of the step. -/
def MayIssue (op : Opcode) (p : Port) (phase : Phase) : Prop :=
  (p = .producer ∧ op ≠ .done) ∨
  (p = .status ∧ (op = .setEnabled ∨ op = .setMaxSize ∨ op = .setCpiSpan ∨ op = .readChStatus ∨ op = .readGlobal)) ∨
  (p = .consumer ∧ phase = .dispatch ∧
    (op = .popFront ∨ op = .peek ∨ op = .readChStatus ∨ op = .readGlobal ∨ op = .done))

/-- The format errors of R44 to R46, written on the command word as a number: RSV is bits 25:16, G bit 27, V bit 26 and
CH bits 15:0. -/
def FormatError (op : Opcode) (cw : Word) : Prop :=
  cw.toNat / 2 ^ 16 % 2 ^ 10 ≠ 0 ∨
  (cw.toNat / 2 ^ 27 % 2 = 1 ∧ op ≠ .setEnabled ∧ op ≠ .setMaxSize) ∨
  (cw.toNat / 2 ^ 27 % 2 = 1 ∧ cw.toNat % 2 ^ 16 ≠ 0) ∨
  ((op = .setCpiSpan ∨ op = .readGlobal ∨ op = .done) ∧ cw.toNat % 2 ^ 16 ≠ 0) ∨
  (cw.toNat / 2 ^ 26 % 2 = 1 ∧ op ≠ .setEnabled ∧ op ≠ .done)

/-- Every enabled channel's verdict is OK (42_cpi.md R77). -/
def AllVerdictsOk (threshold span : Word) (m : Memory) : Prop :=
  ∀ c ∈ m, c.enabled = true → (cpiCheck threshold span c).1 = .ok

/-- Some enabled channel's verdict is REJECTED (R77). -/
def SomeVerdictRejected (threshold span : Word) (m : Memory) : Prop :=
  ∃ c ∈ m, c.enabled = true ∧ (cpiCheck threshold span c).1 = .rejected

/-- The storage with every enabled channel as CpiCheck leaves it and every disabled one as it was (R77). -/
def checkedEvery (threshold span : Word) (m : Memory) : Memory :=
  m.map (fun c => if c.enabled then (cpiCheck threshold span c).2 else c)

/-- The channel starts with CPI_SPAN entries of one code and an entry of another code behind them (R74 to R76). -/
def HoldsCompleteCpi (span : Word) (c : Channel) : Prop :=
  span.toNat + 1 ≤ c.queue.length ∧
  (∀ k, k < span.toNat → c.queue[k]?.map Entry.code = c.queue[0]?.map Entry.code) ∧
  c.queue[span.toNat]?.map Entry.code ≠ c.queue[0]?.map Entry.code

/-- The channel is non-empty with the counter t in front (41_alignment.md R66). -/
def HasFront (t : Word) (c : Channel) : Prop := ∃ e q, c.queue = e :: q ∧ e.seq = t

/-- A command that starts at once when offered first (R31, R32): port P has none in progress, or the command is one of
port C, or one of port S that is no SET_*. -/
def StartsAtOnce (s : State) (p : Port) (t : Transaction) : Prop :=
  s.inProgress = none ∨ p = .consumer ∨ (p = .status ∧ isConfigWrite t = false)

/-- Nothing but the storage, the responses and the model's bookkeeping of boundaries differs. -/
def SameRegisters (s t : State) : Prop :=
  t.cfg = s.cfg ∧ t.arch.cpiSpan = s.arch.cpiSpan ∧ t.arch.phase = s.arch.phase ∧ t.arch.dkind = s.arch.dkind ∧
  t.inProgress = s.inProgress ∧ t.cur = s.cur ∧ t.inbox = s.inbox ∧ t.draws = s.draws

/-- Every channel but channel i is as it was: its registers and every entry of its queue. -/
def SameChannelsBut (i : Nat) (s t : State) : Prop :=
  t.arch.chans.length = s.arch.chans.length ∧
  ∀ j, j ≠ i → Memory.chan t.arch.chans j = Memory.chan s.arch.chans j

/-- The state s with one more response, on the port of its command. -/
def Answered (s : State) (r : Response) : State := { s with outbox := s.outbox ++ [⟨s.cur, r⟩] }

/-- The boundary states that a relaxed read may still show after a step that took s to another register map (R34). -/
def boundariesAfter (s : State) : List Arch :=
  if s.inProgress.isSome then s.boundaries ++ [s.arch] else s.boundaries

/-- Apply f to the payload of an entry. -/
def Entry.mapPayload (f : Payload → Payload) (e : Entry) : Entry := { e with payload := f e.payload }

/-- Apply f to every payload of a channel. -/
def Channel.mapPayload (f : Payload → Payload) (c : Channel) : Channel :=
  { c with queue := c.queue.map (Entry.mapPayload f) }

/-- Apply f to every payload of the register map. -/
def Arch.mapPayload (f : Payload → Payload) (a : Arch) : Arch :=
  { a with chans := a.chans.map (Channel.mapPayload f) }

/-- Apply f to the payload of an instruction. -/
def mapInstrPayload (f : Payload → Payload) : Instr → Instr
  | .addData ch seq code payload => .addData ch seq code (f payload)
  | .setEnabled ch v => .setEnabled ch v
  | .setEnabledAll v => .setEnabledAll v
  | .setMaxSize ch n => .setMaxSize ch n
  | .setMaxSizeAll n => .setMaxSizeAll n
  | .setCpiSpan n => .setCpiSpan n
  | .popFront ch => .popFront ch
  | .peek ch pos => .peek ch pos
  | .prune ch target => .prune ch target
  | .readChStatus ch => .readChStatus ch
  | .readGlobal => .readGlobal
  | .done v => .done v

/-- Apply f to the payload of a response. -/
def Reply.mapPayload (f : Payload → Payload) (r : Reply) : Reply :=
  { r with response := { r.response with payload := r.response.payload.map f } }

/-- Apply f to every payload the machine holds or has returned; what is still offered stays. -/
def State.mapPayload (f : Payload → Payload) (s : State) : State :=
  { s with arch := s.arch.mapPayload f
           inProgress := s.inProgress.map (mapInstrPayload f)
           boundaries := s.boundaries.map (Arch.mapPayload f)
           outbox := s.outbox.map (Reply.mapPayload f) }

/-- Apply f to every payload of an outcome. -/
def mapOutcomePayload (f : Payload → Payload) :
    Host.Outcome State Fault Refusal → Host.Outcome State Fault Refusal
  | .next s => .next (s.mapPayload f)
  | .fault r => .fault r
  | .refused r => .refused r

end Sys2Proof.Machine
end

