-- ==== Sys2Proof/Certificates/Slice0/Obligations.lean ====
section
/-! DEFINITION. The statements for the provers. Each docstring names the rule of spec/ or the log entry it rests on. A
state of a statement is any state, of any build, unless a premise says otherwise. -/

open Sys2Proof Sys2Proof.Machine

/-! ### Encoding (30_encoding.md) -/

/-- Decoding the encoding of any instruction gives it back, with every operand at every value (sections 2, 4 and 6). -/
def Obligations.DecodeOfEncodeIsIdentity : Prop :=
  ∀ i : Instr, decode (encode i) = .ok i

/-- Every transaction that decodes is the encoding of what it decodes to, so an instruction has one encoding. -/
def Obligations.EncodeOfDecodeIsIdentity : Prop :=
  ∀ (t : Transaction) (i : Instr), decode t = .ok i → encode i = t

/-- A few words written out from R38, R39 and R42, and what they stand for. -/
def Obligations.WordsOfTheTableDecode : Prop :=
  decode ⟨0x10000002, [9, 0xA], some []⟩ = .ok (.addData 2 9 0xA []) ∧
  decode ⟨0x24000002, [], none⟩ = .ok (.setEnabled 2 true) ∧
  decode ⟨0x38000000, [3], none⟩ = .ok (.setMaxSizeAll 3) ∧
  decode ⟨0x40000000, [4], none⟩ = .ok (.setCpiSpan 4) ∧
  decode ⟨0x80000001, [], none⟩ = .ok (.readChStatus 1) ∧
  decode ⟨0xA4000000, [], none⟩ = .ok (.done true)

/-- R43: a reserved OP takes no operand words and no payload and is answered with ErrOPCODE; nothing else changes. -/
def Obligations.ReservedOpcodeIsAnswered : Prop :=
  ∀ (t : Transaction) (s : State), (t.cw.toNat / 2 ^ 28 = 0 ∨ 11 ≤ t.cw.toNat / 2 ^ 28) →
    operandWordsOf t.cw = 0 ∧ takesPayloadOf t.cw = false ∧
    (t.operands = [] → t.payload = none → serve t s = .next (Answered s { rw := 3 }))

/-- R44 to R46: a word of a selected opcode decodes to an instruction of that opcode exactly where it has no format
error. -/
def Obligations.FormatIsCheckedAsStated : Prop :=
  ∀ (t : Transaction) (op : Opcode), t.framed = true → Opcode.ofField (opField t.cw) = some op →
    ((∃ i, decode t = .ok i ∧ i.opcode = op) ↔ ¬ FormatError op t.cw) ∧
    (decode t = .error (.format op) ↔ FormatError op t.cw)

/-- R44 to R46 with R88 and R89: a word with a format error is answered with ErrFORMAT, or with ErrPORT where the port
may not issue the command; nothing else changes. -/
def Obligations.FormatErrorIsAnswered : Prop :=
  ∀ (t : Transaction) (op : Opcode) (s : State), t.framed = true → Opcode.ofField (opField t.cw) = some op →
    FormatError op t.cw →
    (MayIssue op s.cur s.arch.phase → serve t s = .next (Answered s { rw := 6 })) ∧
    (¬ MayIssue op s.cur s.arch.phase → serve t s = .next (Answered s { rw := 4 }))

/-! ### Errors and permissions (60_exceptions.md) -/

/-- R90 with R88 and R89: an instruction on a port that may not issue it is answered with ErrPORT before any other check
of its operands; nothing else changes. -/
def Obligations.PortErrorComesFirst : Prop :=
  ∀ (i : Instr) (s : State), ¬ MayIssue i.opcode s.cur s.arch.phase → exec i s = .next (Answered s { rw := 4 })

/-- R89 for the checks that follow the port's and the format's: ErrMODE, then ErrCHANNEL, then ErrRANGE; nothing else
changes. -/
def Obligations.OperandErrorsInOrder : Prop :=
  ∀ (i : Instr) (s : State), MayIssue i.opcode s.cur s.arch.phase →
    (i.opcode = .setCpiSpan → s.cfg.mode = .align → exec i s = .next (Answered s { rw := 5 })) ∧
    (∀ ch, channelOf i = some ch → s.cfg.nChannels ≤ ch.toNat → exec i s = .next (Answered s { rw := 1 })) ∧
    ((i.opcode = .setCpiSpan → s.cfg.mode = .cpi) → (∀ ch, channelOf i = some ch → ch.toNat < s.cfg.nChannels) →
      i.wellFormed s.cfg = false → exec i s = .next (Answered s { rw := 2 }))

/-- R88: a command answered with a non-zero STATUS changes no state at all, whichever of the offered commands it is; its
transaction is taken whole and its response has only the status. -/
def Obligations.ErrorsChangeNoState : Prop :=
  ∀ (s t : State) (k : Picked) (p : Port) (tr : Transaction),
    s.nextEvent = some k → k.event = .command p tr → step s = .next t →
    ∀ r ∈ t.outbox.drop s.outbox.length, r.response.rw.toNat % 16 ≠ 0 →
      t = { s with cur := p, inbox := k.waiting ++ k.later, outbox := s.outbox ++ [r] } ∧
      r.port = p ∧ r.response.rw.toNat < 16 ∧ r.response.data = [] ∧ r.response.payload = none

/-- R95: a DONE 0 ends the dispatch without an error and with the state that DONE 1 leaves, no channel changed; the value
shows only in the CB bit that port P is told. That the answer of port C stands before port P's in the record is the model's
choice (log 7). -/
def Obligations.ConsumerValueIsOnlyReported : Prop :=
  ∀ (s : State), s.cur = .consumer → s.arch.phase = .dispatch →
    ∃ (t : State) (before : List Reply) (rw : Word),
      rw.toNat % 2 ^ 4 = 0 ∧ rw.toNat / 2 ^ 6 % 2 = 0 ∧ before = s.outbox ++ [⟨.consumer, { rw := 0 }⟩] ∧
      t.arch.chans = s.arch.chans ∧ t.arch.cpiSpan = s.arch.cpiSpan ∧ t.arch.phase = .idle ∧
      exec (.done false) s = .next { t with outbox := before ++ [⟨.producer, { rw := rw }⟩] } ∧
      exec (.done true) s = .next { t with outbox := before ++ [⟨.producer, { rw := rw ||| 0x40 }⟩] }

/-! ### The channel buffer (40_buffer.md) -/

/-- R51, with its corner cases and its examples. -/
def Obligations.OlderComparesWithWraparound : Prop :=
  (∀ T f t : Word, older T f t = true ↔
    f.toNat < t.toNat ∨ (t.toNat < f.toNat ∧ T.toNat < f.toNat - t.toNat)) ∧
  (∀ T f : Word, older T f f = false) ∧
  (∀ f t : Word, t.toNat < f.toNat → older 65536 f t = true → 65537 ≤ f.toNat) ∧
  (∀ f t : Word, f.toNat ≤ 65535 → t.toNat ≤ 65535 → (older 65536 f t = true ↔ f.toNat < t.toNat)) ∧
  older 65536 5 10 = true ∧ older 65536 10 5 = false ∧ older 65536 65535 0 = false ∧ older 65536 70000 1 = true ∧
  older 32768 65535 0 = true

/-- R53: Trim keeps the newest MAXSZ entries, in their order, and NSC follows where an entry left. -/
def Obligations.TrimKeepsTheNewest : Prop :=
  ∀ c : Channel,
    c.trim.queue = c.queue.drop (c.queue.length - c.maxSize.toNat) ∧
    c.trim.queue.length = min c.queue.length c.maxSize.toNat ∧
    c.trim.maxSize = c.maxSize ∧ c.trim.enabled = c.enabled ∧
    (c.queue.length ≤ c.maxSize.toNat → c.trim = c) ∧
    (c.maxSize.toNat < c.queue.length → c.trim.nsc = frontSeq c.trim.queue)

/-- R54: Prune takes the older entries from the front up to the first that is not older; its bit; an empty queue; and
pruning twice. -/
def Obligations.PruneStopsAtFirstNotOlder : Prop :=
  ∀ (T t : Word) (c : Channel),
    (∃ gone, c.queue = gone ++ (c.prune T t).queue ∧ ∀ e ∈ gone, older T e.seq t = true) ∧
    (∀ e q, (c.prune T t).queue = e :: q → older T e.seq t = false) ∧
    (c.prune T t).maxSize = c.maxSize ∧ (c.prune T t).enabled = c.enabled ∧
    ((c.prune T t).queue = c.queue → c.prune T t = c) ∧
    ((c.prune T t).queue ≠ c.queue → (c.prune T t).nsc = frontSeq (c.prune T t).queue) ∧
    (((c.prune T t).frontIs t = true) ↔ ∃ e q, (c.prune T t).queue = e :: q ∧ e.seq = t) ∧
    (c.queue = [] → c.prune T t = c ∧ (c.prune T t).frontIs t = false) ∧
    (c.prune T t).prune T t = c.prune T t

/-- R55. -/
def Obligations.ClearEmptiesTheQueue : Prop :=
  ∀ c : Channel, c.clear.queue = [] ∧ c.clear.nsc = 0 ∧ c.clear.maxSize = c.maxSize ∧ c.clear.enabled = c.enabled

/-- What ADD_DATA stores (40_buffer.md section 3): the message goes to the back and the front is evicted where the bound is
exceeded, so that the newest message stays; with a bound of 1 it stands alone. -/
def Obligations.AcceptKeepsTheNewMessage : Prop :=
  ∀ (c : Channel) (e : Entry),
    (c.accept e).queue = (c.queue ++ [e]).drop (c.queue.length + 1 - c.maxSize.toNat) ∧
    (c.maxSize ≠ 0 → (c.accept e).queue.getLast? = some e) ∧
    (c.maxSize = 1 → (c.accept e).queue = [e]) ∧
    (c.accept e).queue.length = min (c.queue.length + 1) c.maxSize.toNat ∧
    (c.nsc = frontSeq c.queue → (c.accept e).nsc = frontSeq (c.accept e).queue) ∧
    (c.accept e).maxSize = c.maxSize ∧ (c.accept e).enabled = c.enabled

/-- ADD_DATA to a disabled channel completes with OK and changes nothing (section 3). -/
def Obligations.AddDataToDisabledChannelIsNoOp : Prop :=
  ∀ (s : State) (ch : ChanIndex) (seq code : Word) (payload : Payload),
    s.cur = .producer → ch.toNat < s.cfg.nChannels → (s.chan ch).enabled = false →
    exec (.addData ch seq code payload) s = .next (Answered s { rw := 0 })

/-- ADD_DATA to an enabled channel completes: the message is accepted, the notification runs on the storage with it, and
either nothing is dispatched and port P is answered OK, or the dispatch is entered with the response withheld (section 3;
41_alignment.md section 2). In ALIGN mode the notification is one alignment pass and dispatches where it succeeds; in CPI
mode it is what `Obligations.CpiNotifyChecksAllAndRetriesOnce` says. -/
def Obligations.AddDataNotifiesAndMayDispatch : Prop :=
  ∀ (s : State) (ch : ChanIndex) (seq code : Word) (payload : Payload),
    s.cur = .producer → ch.toNat < s.cfg.nChannels → (s.chan ch).enabled = true → s.arch.phase = .idle →
    ∃ (m : Memory) (dispatches : Bool),
      notifyMemory s.cfg s.arch.cpiSpan
        (Memory.update s.arch.chans ch.toNat (fun c => c.accept ⟨seq, code, payload⟩)) = (m, dispatches) ∧
      (s.cfg.mode = .align → (m, dispatches) = alignPass s.cfg.wrapThreshold
        (Memory.update s.arch.chans ch.toNat (fun c => c.accept ⟨seq, code, payload⟩))) ∧
      (dispatches = false → exec (.addData ch seq code payload) s =
        .next { s with arch := { s.arch with chans := m }
                       boundaries := boundariesAfter s
                       outbox := s.outbox ++ [⟨.producer, { rw := 0 }⟩] }) ∧
      (dispatches = true → exec (.addData ch seq code payload) s =
        .next { s with arch := { chans := m, cpiSpan := s.arch.cpiSpan, phase := .dispatch,
                                 dkind := if s.cfg.mode = .align then .aligned else .cpi }
                       inProgress := some (.addData ch seq code payload)
                       boundaries := [s.arch] })

/-- The frame of ADD_DATA to an enabled channel: whatever the notification prunes, no bound and no enable changes, a
disabled channel is as it was, every queue but the addressed one keeps a rear part of its entries, and the addressed one a
rear part of its entries with the message behind them; CPI_SPAN and the parameters stay. -/
def Obligations.AddDataFrame : Prop :=
  ∀ (s t : State) (ch : ChanIndex) (seq code : Word) (payload : Payload),
    s.cur = .producer → s.arch.chans.length = s.cfg.nChannels → ch.toNat < s.cfg.nChannels →
    (s.chan ch).enabled = true → exec (.addData ch seq code payload) s = .next t →
    t.cfg = s.cfg ∧ t.arch.cpiSpan = s.arch.cpiSpan ∧ t.cur = s.cur ∧ t.inbox = s.inbox ∧ t.draws = s.draws ∧
    t.arch.chans.length = s.arch.chans.length ∧
    ∀ j, (Memory.chan t.arch.chans j).enabled = (Memory.chan s.arch.chans j).enabled ∧
      (Memory.chan t.arch.chans j).maxSize = (Memory.chan s.arch.chans j).maxSize ∧
      ((Memory.chan s.arch.chans j).enabled = false → Memory.chan t.arch.chans j = Memory.chan s.arch.chans j) ∧
      (j ≠ ch.toNat → t.queue j <:+ s.queue j) ∧
      (j = ch.toNat → t.queue j <:+ s.queue j ++ [⟨seq, code, payload⟩])

/-- POP_FRONT on a non-empty queue returns its oldest entry and removes it, and changes nothing else (section 3). -/
def Obligations.PopFrontReturnsTheOldest : Prop :=
  ∀ (s : State) (ch : ChanIndex) (e : Entry) (q : List Entry),
    (s.cur = .producer ∨ (s.cur = .consumer ∧ s.arch.phase = .dispatch)) → ch.toNat < s.cfg.nChannels →
    s.queue ch.toNat = e :: q →
    ∃ t, exec (.popFront ch) s = .next t ∧
      t.chan ch = { s.chan ch with queue := q, nsc := match q with | [] => 0 | e' :: _ => e'.seq } ∧
      SameChannelsBut ch.toNat s t ∧ SameRegisters s t ∧ t.boundaries = boundariesAfter s ∧
      t.outbox = s.outbox ++ [⟨s.cur, { rw := 0x80, data := [e.seq, e.code], payload := some e.payload }⟩]

/-- POP_FRONT on an empty queue answers RB = 0 with two zero words and no payload, and changes nothing (section 3). -/
def Obligations.PopFrontOnEmptyChangesNothing : Prop :=
  ∀ (s : State) (ch : ChanIndex),
    (s.cur = .producer ∨ (s.cur = .consumer ∧ s.arch.phase = .dispatch)) → ch.toNat < s.cfg.nChannels →
    s.queue ch.toNat = [] →
    exec (.popFront ch) s = .next (Answered s { rw := 0, data := [0, 0] })

/-- PEEK returns the entry at its position, or RB = 0 past the back, and changes nothing (section 3). -/
def Obligations.PeekReadsWithoutRemoving : Prop :=
  ∀ (s : State) (ch : ChanIndex) (pos : Word),
    (s.cur = .producer ∨ (s.cur = .consumer ∧ s.arch.phase = .dispatch)) → ch.toNat < s.cfg.nChannels →
    (∀ e, (s.queue ch.toNat)[pos.toNat]? = some e →
      exec (.peek ch pos) s =
        .next (Answered s { rw := 0x80, data := [e.seq, e.code], payload := some e.payload })) ∧
    ((s.queue ch.toNat).length ≤ pos.toNat →
      exec (.peek ch pos) s = .next (Answered s { rw := 0, data := [0, 0] }))

/-- PRUNE takes the older entries from the front of its channel and answers whether the front then is the target; it
changes nothing else and does not dispatch (section 3). -/
def Obligations.PruneAnswersTheAlignmentBit : Prop :=
  ∀ (s : State) (ch : ChanIndex) (target : Word),
    s.cur = .producer → ch.toNat < s.cfg.nChannels →
    ∃ t, exec (.prune ch target) s = .next t ∧
      t.queue ch.toNat = (s.queue ch.toNat).dropWhile (fun e => older s.cfg.wrapThreshold e.seq target) ∧
      (t.chan ch).maxSize = (s.chan ch).maxSize ∧ (t.chan ch).enabled = (s.chan ch).enabled ∧
      ((s.chan ch).nsc = frontSeq (s.chan ch).queue → (t.chan ch).nsc = frontSeq (t.chan ch).queue) ∧
      SameChannelsBut ch.toNat s t ∧ SameRegisters s t ∧ t.boundaries = boundariesAfter s ∧
      t.outbox = s.outbox ++
        [⟨.producer, { rw := if (t.queue ch.toNat).head?.map Entry.seq = some target then 0x80 else 0 }⟩]

/-- SET_MAX_SIZE with a legal bound sets MAXSZ and trims at once, and changes nothing else (section 3). The premise on the
number of channels is part of the invariant `State.inv`. -/
def Obligations.SetMaxSizeTrimsAtOnce : Prop :=
  ∀ (s : State) (ch : ChanIndex) (n : Word),
    (s.cur = .producer ∨ s.cur = .status) → s.arch.chans.length = s.cfg.nChannels → ch.toNat < s.cfg.nChannels →
    n ≠ 0 → n ≤ s.cfg.maxSizeLimit →
    ∃ t, exec (.setMaxSize ch n) s = .next t ∧
      (t.chan ch).maxSize = n ∧ (t.chan ch).enabled = (s.chan ch).enabled ∧
      t.queue ch.toNat = (s.queue ch.toNat).drop ((s.queue ch.toNat).length - n.toNat) ∧
      ((s.chan ch).nsc = frontSeq (s.chan ch).queue → (t.chan ch).nsc = frontSeq (t.chan ch).queue) ∧
      SameChannelsBut ch.toNat s t ∧ SameRegisters s t ∧ t.boundaries = boundariesAfter s ∧
      t.outbox = s.outbox ++ [⟨s.cur, { rw := 0 }⟩]

/-- SET_MAX_SIZE_ALL with a legal bound does so on every channel (section 3). -/
def Obligations.SetMaxSizeAllTrimsEveryChannel : Prop :=
  ∀ (s : State) (n : Word),
    (s.cur = .producer ∨ s.cur = .status) → n ≠ 0 → n ≤ s.cfg.maxSizeLimit →
    ∃ t, exec (.setMaxSizeAll n) s = .next t ∧ t.arch.chans.length = s.arch.chans.length ∧
      (∀ j, j < s.arch.chans.length →
        (Memory.chan t.arch.chans j).maxSize = n ∧
        (Memory.chan t.arch.chans j).enabled = (Memory.chan s.arch.chans j).enabled ∧
        t.queue j = (s.queue j).drop ((s.queue j).length - n.toNat) ∧
        ((Memory.chan s.arch.chans j).nsc = frontSeq (s.queue j) →
          (Memory.chan t.arch.chans j).nsc = frontSeq (t.queue j))) ∧
      SameRegisters s t ∧ t.boundaries = boundariesAfter s ∧ t.outbox = s.outbox ++ [⟨s.cur, { rw := 0 }⟩]

/-- SET_ENABLED clears its channel and sets EN on a transition, and changes nothing of the block on the value already held
(section 3). -/
def Obligations.SetEnabledClearsOnTransition : Prop :=
  ∀ (s : State) (ch : ChanIndex) (v : Bool),
    (s.cur = .producer ∨ s.cur = .status) → s.arch.chans.length = s.cfg.nChannels → ch.toNat < s.cfg.nChannels →
    ∃ t, exec (.setEnabled ch v) s = .next t ∧
      (v = (s.chan ch).enabled → t.arch = s.arch) ∧
      (v ≠ (s.chan ch).enabled →
        t.chan ch = { queue := [], nsc := 0, maxSize := (s.chan ch).maxSize, enabled := v }) ∧
      SameChannelsBut ch.toNat s t ∧ SameRegisters s t ∧ t.boundaries = boundariesAfter s ∧
      t.outbox = s.outbox ++ [⟨s.cur, { rw := 0 }⟩]

/-- SET_ENABLED_ALL does so on every channel; a channel already at the value is untouched (section 3). -/
def Obligations.SetEnabledAllClearsOnTransition : Prop :=
  ∀ (s : State) (v : Bool),
    (s.cur = .producer ∨ s.cur = .status) →
    ∃ t, exec (.setEnabledAll v) s = .next t ∧ t.arch.chans.length = s.arch.chans.length ∧
      (∀ j, j < s.arch.chans.length →
        (v = (Memory.chan s.arch.chans j).enabled → Memory.chan t.arch.chans j = Memory.chan s.arch.chans j) ∧
        (v ≠ (Memory.chan s.arch.chans j).enabled → Memory.chan t.arch.chans j =
          { queue := [], nsc := 0, maxSize := (Memory.chan s.arch.chans j).maxSize, enabled := v })) ∧
      SameRegisters s t ∧ t.boundaries = boundariesAfter s ∧ t.outbox = s.outbox ++ [⟨s.cur, { rw := 0 }⟩]

/-- R30: whatever an instruction does, a channel keeps a rear part of its entries, unchanged and in arrival order, and only
ADD_DATA puts one behind them. -/
def Obligations.EntriesAreNeverReordered : Prop :=
  ∀ (i : Instr) (s t : State), exec i s = .next t →
    ∀ j, (t.queue j <:+ s.queue j) ∨
      ∃ ch seq code payload, i = .addData ch seq code payload ∧ ch.toNat = j ∧
        t.queue j <:+ s.queue j ++ [⟨seq, code, payload⟩]

/-! ### Alignment and dispatch (41_alignment.md) -/

/-- The target of R65 exists exactly where an enabled channel holds data, and is the NSC of such a channel; and the fold is
in ascending channel order: one more channel, with the highest index, replaces the target of those before it where it is
enabled, holds data, and its NSC is greater, or is less by more than the threshold. -/
def Obligations.TargetIsAFrontCounter : Prop :=
  ∀ (T : Word) (m : Memory),
    (computeTarget T m = none ↔ ∀ c ∈ m, c.enabled = true → c.queue = []) ∧
    (∀ t, computeTarget T m = some t → ∃ c ∈ m, c.enabled = true ∧ c.queue ≠ [] ∧ c.nsc = t) ∧
    (∀ last : Channel, last.enabled = false ∨ last.queue = [] → computeTarget T (m ++ [last]) = computeTarget T m) ∧
    (∀ last : Channel, last.enabled = true → last.queue ≠ [] →
      (computeTarget T m = none → computeTarget T (m ++ [last]) = some last.nsc) ∧
      (∀ t, computeTarget T m = some t → computeTarget T (m ++ [last]) =
        if t.toNat < last.nsc.toNat ∨ (last.nsc.toNat < t.toNat ∧ T.toNat < t.toNat - last.nsc.toNat) then some last.nsc
        else some t))

/-- Where no two front counters are more than WRAP_THRESHOLD apart, the target is the largest of them (section 1). -/
def Obligations.TargetIsTheLargestWithoutWrap : Prop :=
  ∀ (T : Word) (m : Memory) (t : Word),
    (∀ c ∈ m, ∀ d ∈ m, c.enabled = true → d.enabled = true → c.queue ≠ [] → d.queue ≠ [] →
      c.nsc.toNat - d.nsc.toNat ≤ T.toNat) →
    computeTarget T m = some t →
    ∀ c ∈ m, c.enabled = true → c.queue ≠ [] → c.nsc.toNat ≤ t.toNat

/-- AlignPass prunes every enabled channel to the target, whether or not another fails, and no disabled one, and succeeds
exactly where there is a target and every enabled channel then has it as its front (section 1). -/
def Obligations.AlignPassReportsAlignment : Prop :=
  ∀ (T : Word) (m : Memory),
    ((alignPass T m).2 = true ↔
      ∃ t, computeTarget T m = some t ∧
        ∀ c ∈ (alignPass T m).1, c.enabled = true → ∃ e q, c.queue = e :: q ∧ e.seq = t) ∧
    (computeTarget T m = none → alignPass T m = (m, false)) ∧
    (∀ t, computeTarget T m = some t → (alignPass T m).1.length = m.length ∧
      ∀ j, ((Memory.chan m j).enabled = false → Memory.chan (alignPass T m).1 j = Memory.chan m j) ∧
        ((Memory.chan m j).enabled = true →
          (Memory.chan (alignPass T m).1 j).queue = (Memory.chan m j).queue.dropWhile (fun e => older T e.seq t) ∧
          (Memory.chan (alignPass T m).1 j).enabled = true ∧
          (Memory.chan (alignPass T m).1 j).maxSize = (Memory.chan m j).maxSize ∧
          (Memory.chan (alignPass T m).1 j).nsc =
            if (Memory.chan (alignPass T m).1 j).queue = (Memory.chan m j).queue then (Memory.chan m j).nsc
            else frontSeq (Memory.chan (alignPass T m).1 j).queue))

/-- R71: with exactly one enabled channel, in ALIGN mode, every ADD_DATA to it dispatches and is withheld. -/
def Obligations.OneEnabledChannelAlwaysDispatches : Prop :=
  ∀ (s : State) (ch : ChanIndex) (seq code : Word) (payload : Payload),
    s.cfg.mode = .align → Memory.wf s.cfg s.arch.chans = true → s.cur = .producer → s.arch.phase = .idle →
    ch.toNat < s.cfg.nChannels →
    (∀ j, (Memory.chan s.arch.chans j).enabled = true ↔ j = ch.toNat) →
    ∃ t, exec (.addData ch seq code payload) s = .next t ∧ t.arch.phase = .dispatch ∧ t.arch.dkind = .aligned ∧
      t.inProgress = some (.addData ch seq code payload) ∧ t.outbox = s.outbox ∧
      t.arch.chans = Memory.update s.arch.chans ch.toNat (fun c => c.accept ⟨seq, code, payload⟩)

/-- R72: disabled channels are not changed by a notification and have no influence on it. -/
def Obligations.DisabledChannelsHaveNoInfluence : Prop :=
  ∀ (cfg : Config) (span : Word) (m : Memory),
    (notifyMemory cfg span m).2 = (notifyMemory cfg span (m.filter Channel.enabled)).2 ∧
    (notifyMemory cfg span m).1.filter Channel.enabled = (notifyMemory cfg span (m.filter Channel.enabled)).1 ∧
    ∀ i, (Memory.chan m i).enabled = false → Memory.chan (notifyMemory cfg span m).1 i = Memory.chan m i

/-- What the consumer finds (section 2 and 42_cpi.md section 2): a dispatch is entered only with some channel enabled; in
ALIGN mode every enabled channel has a front with one common counter; in CPI mode every enabled channel also holds a
complete CPI, CPI_SPAN entries of one code with an entry of another code behind them. -/
def Obligations.DispatchShowsACompleteSet : Prop :=
  ∀ (s t : State) (ch : ChanIndex) (seq code : Word) (payload : Payload),
    s.arch.phase = .idle → exec (.addData ch seq code payload) s = .next t → t.arch.phase = .dispatch →
    (∃ c ∈ t.arch.chans, c.enabled = true) ∧
    (∃ front : Word, ∀ c ∈ t.arch.chans, c.enabled = true → ∃ e q, c.queue = e :: q ∧ e.seq = front) ∧
    (s.cfg.mode = .align → t.arch.dkind = .aligned) ∧
    (s.cfg.mode = .cpi → t.arch.dkind = .cpi ∧
      ∀ c ∈ t.arch.chans, c.enabled = true →
        s.arch.cpiSpan.toNat + 1 ≤ c.queue.length ∧
        (∀ k, k < s.arch.cpiSpan.toNat → c.queue[k]?.map Entry.code = c.queue[0]?.map Entry.code) ∧
        c.queue[s.arch.cpiSpan.toNat]?.map Entry.code ≠ c.queue[s.arch.cpiSpan.toNat - 1]?.map Entry.code)

/-- Where the message makes the set complete, the ADD_DATA dispatches at once and nothing is pruned (section 2 and
42_cpi.md section 2): every enabled channel, with the message in, has one common counter in front and, in CPI mode, holds a
complete CPI. The premises on the storage and on the span are part of the invariant `State.inv`. -/
def Obligations.CompleteSetIsDispatched : Prop :=
  ∀ (s : State) (ch : ChanIndex) (seq code : Word) (payload : Payload) (m : Memory) (front : Word),
    s.cur = .producer → s.arch.phase = .idle → Memory.wf s.cfg s.arch.chans = true →
    spanWf s.cfg s.arch.cpiSpan = true → ch.toNat < s.cfg.nChannels → (s.chan ch).enabled = true →
    m = Memory.update s.arch.chans ch.toNat (fun c => c.accept ⟨seq, code, payload⟩) →
    (∀ c ∈ m, c.enabled = true → HasFront front c) →
    (s.cfg.mode = .cpi → ∀ c ∈ m, c.enabled = true → HoldsCompleteCpi s.arch.cpiSpan c) →
    exec (.addData ch seq code payload) s =
      .next { s with arch := { chans := m, cpiSpan := s.arch.cpiSpan, phase := .dispatch,
                               dkind := if s.cfg.mode = .align then .aligned else .cpi }
                     inProgress := some (.addData ch seq code payload)
                     boundaries := [s.arch] }

/-- Only an ADD_DATA to an enabled channel enters a dispatch: no other instruction does (section 3; 40_buffer.md, every
SET_*, POP_FRONT and PRUNE). -/
def Obligations.OnlyAddDataDispatches : Prop :=
  ∀ (i : Instr) (s t : State), exec i s = .next t → s.arch.phase = .idle → t.arch.phase = .dispatch →
    ∃ ch seq code payload, i = .addData ch seq code payload ∧ (s.chan ch).enabled = true ∧ s.cur = .producer

/-- DONE completes the dispatch: PHASE and DKIND return, port C is answered OK and port P's ADD_DATA with DISP and CB;
every entry stays (section 2). The order of the two answers in the record is the model's choice (log 7). -/
def Obligations.DoneEndsTheDispatch : Prop :=
  ∀ (s : State) (v : Bool), s.cur = .consumer → s.arch.phase = .dispatch →
    exec (.done v) s =
      .next { s with arch := { s.arch with phase := .idle, dkind := .none }
                     inProgress := none
                     boundaries := []
                     outbox := s.outbox ++
                       [⟨.consumer, { rw := 0 }⟩,
                        ⟨.producer, { rw := (if s.arch.dkind = .aligned then 0x10 else 0x20) +
                                            (if v then 0x40 else 0) }⟩] }

/-- A dispatch ends by the consumer's DONE or by a reset and by nothing else (60_exceptions.md section 3;
70_reset_and_hazards.md section 2): a step out of PHASE = DISPATCH has taken one of the two. -/
def Obligations.OnlyDoneOrResetEndsADispatch : Prop :=
  ∀ s t : State, step s = .next t → s.arch.phase = .dispatch → t.arch.phase = .idle →
    ∃ k, s.nextEvent = some k ∧
      ((∃ c, k.event = .reset c) ∨
       ∃ tr v, k.event = .command .consumer tr ∧ decode tr = .ok (.done v))

/-! ### CPI assembly (42_cpi.md) -/

/-- R74 and R75: the verdict of CpiCheck by the first change of code within the span, and what it writes. -/
def Obligations.CpiCheckFindsTheFirstChange : Prop :=
  ∀ (T span : Word) (c : Channel),
    (c.queue.length ≤ span.toNat → cpiCheck T span c = (.short, c)) ∧
    (span.toNat < c.queue.length →
      ((∀ k, 1 ≤ k → k ≤ span.toNat → c.queue[k]?.map Entry.code = c.queue[k - 1]?.map Entry.code) →
        cpiCheck T span c = (.noBoundary, c)) ∧
      (∀ p, 1 ≤ p → p ≤ span.toNat → c.queue[p]?.map Entry.code ≠ c.queue[p - 1]?.map Entry.code →
        (∀ k, 1 ≤ k → k < p → c.queue[k]?.map Entry.code = c.queue[k - 1]?.map Entry.code) →
        (p = span.toNat → cpiCheck T span c = (.ok, c)) ∧
        (p < span.toNat → ∀ e, c.queue[p]? = some e → cpiCheck T span c = (.rejected, c.prune T e.seq))))

/-- What a rejection drops (section 1): exactly the p leading entries where their counters are all less than that of the
entry at p, and never the entry at p. -/
def Obligations.RejectionDropsTheIncompleteRun : Prop :=
  ∀ (T : Word) (c : Channel) (p : Nat) (e : Entry), c.queue[p]? = some e →
    ((∀ k e', k < p → c.queue[k]? = some e' → e'.seq.toNat < e.seq.toNat) →
      (c.prune T e.seq).queue = c.queue.drop p) ∧
    c.queue.drop p <:+ (c.prune T e.seq).queue

/-- The notification of CPI mode (section 2): an alignment pass; where it succeeds, CpiCheck of every enabled channel, none
skipped after one that is not OK; a dispatch where every verdict is OK; a second whole pass where some verdict is REJECTED,
and only there; and no third pass, whatever the second one rejects. -/
def Obligations.CpiNotifyChecksAllAndRetriesOnce : Prop :=
  ∀ (cfg : Config) (span : Word) (m m1 : Memory) (aligned : Bool), cfg.mode = .cpi →
    alignPass cfg.wrapThreshold m = (m1, aligned) →
    (aligned = false → notifyMemory cfg span m = (m1, false)) ∧
    (aligned = true → AllVerdictsOk cfg.wrapThreshold span m1 → notifyMemory cfg span m = (m1, true)) ∧
    (aligned = true → ¬ AllVerdictsOk cfg.wrapThreshold span m1 → ¬ SomeVerdictRejected cfg.wrapThreshold span m1 →
      notifyMemory cfg span m = (m1, false)) ∧
    (aligned = true → SomeVerdictRejected cfg.wrapThreshold span m1 →
      ∀ (m2 : Memory) (again : Bool),
        alignPass cfg.wrapThreshold (checkedEvery cfg.wrapThreshold span m1) = (m2, again) →
        (again = false → notifyMemory cfg span m = (m2, false)) ∧
        (again = true → AllVerdictsOk cfg.wrapThreshold span m2 → notifyMemory cfg span m = (m2, true)) ∧
        (again = true → ¬ AllVerdictsOk cfg.wrapThreshold span m2 →
          notifyMemory cfg span m = (checkedEvery cfg.wrapThreshold span m2, false)))

/-- R81: while some enabled channel's bound is at most CPI_SPAN, no instruction enters a dispatch, whatever arrives. -/
def Obligations.SmallBoundNeverDispatches : Prop :=
  ∀ (i : Instr) (s t : State), s.inv = true → s.cfg.mode = .cpi →
    (∃ c ∈ s.arch.chans, c.enabled = true ∧ c.maxSize ≤ s.arch.cpiSpan) →
    exec i s = .next t → s.arch.phase = .idle → t.arch.phase = .idle

/-- SET_CPI_SPAN in CPI mode with a span other than 0 sets CPI_SPAN and changes nothing else (section 3). -/
def Obligations.SetCpiSpanWritesTheSpan : Prop :=
  ∀ (s : State) (n : Word),
    (s.cur = .producer ∨ s.cur = .status) → s.cfg.mode = .cpi → n ≠ 0 →
    exec (.setCpiSpan n) s =
      .next { s with arch := { s.arch with cpiSpan := n }
                     boundaries := boundariesAfter s
                     outbox := s.outbox ++ [⟨s.cur, { rw := 0 }⟩] }

/-! ### Status (43_status.md) -/

/-- READ_CH_STATUS, where it is not relaxed, gives length, bound, NSC and the packed index, EMPTY and EN of its channel, and
changes nothing. -/
def Obligations.ReadChStatusIsExact : Prop :=
  ∀ (s : State) (ch : ChanIndex),
    (s.cur = .producer ∨ (s.cur = .consumer ∧ s.arch.phase = .dispatch) ∨ (s.cur = .status ∧ s.inProgress = none)) →
    ch.toNat < s.cfg.nChannels →
    exec (.readChStatus ch) s = .next (Answered s
      { rw := 0
        data := [BitVec.ofNat 32 (s.queue ch.toNat).length, (s.chan ch).maxSize, (s.chan ch).nsc,
          BitVec.ofNat 32 (ch.toNat * 65536 + (if s.queue ch.toNat = [] then 2 else 0) +
            (if (s.chan ch).enabled then 1 else 0))] })

/-- READ_GLOBAL, where it is not relaxed, gives the parameters, MODE, PHASE, DKIND and CPI_SPAN (0 in ALIGN mode), and
changes nothing. -/
def Obligations.ReadGlobalIsExact : Prop :=
  ∀ s : State,
    (s.cur = .producer ∨ (s.cur = .consumer ∧ s.arch.phase = .dispatch) ∨ (s.cur = .status ∧ s.inProgress = none)) →
    exec .readGlobal s = .next (Answered s
      { rw := 0
        data := [BitVec.ofNat 32 s.cfg.nChannels,
          BitVec.ofNat 32 ((match s.arch.dkind with | .none => 0 | .aligned => 4 | .cpi => 8) +
            (match s.arch.phase with | .idle => 0 | .dispatch => 2) +
            (match s.cfg.mode with | .align => 0 | .cpi => 1)),
          (match s.cfg.mode with | .align => 0 | .cpi => s.arch.cpiSpan),
          s.cfg.maxSizeLimit, s.cfg.wrapThreshold] })

/-- A status read on port S while a command of port P is in progress answers with the values of one state that the block
held at a boundary since that command started, the current one included, and changes nothing but the count of draws
(20_memory.md section 3). Which state it is, is a free value (log 6). -/
def Obligations.RelaxedReadShowsOneBoundaryState : Prop :=
  ∀ s : State, s.cur = .status → s.inProgress.isSome = true →
    (∀ ch : ChanIndex, ch.toNat < s.cfg.nChannels →
      ∃ a ∈ s.boundaries ++ [s.arch], exec (.readChStatus ch) s =
        .next { s with draws := s.draws + 1
                       outbox := s.outbox ++ [⟨.status, { rw := 0, data := channelStatus a ch }⟩] }) ∧
    ∃ a ∈ s.boundaries ++ [s.arch], exec .readGlobal s =
      .next { s with draws := s.draws + 1
                     outbox := s.outbox ++ [⟨.status, { rw := 0, data := globalStatus s.cfg a }⟩] }

/-! ### Ports, steps and ordering (20_memory.md) -/

/-- A step runs the decoded instruction: where the next event is a command whose words decode to i, the step is exec of i,
on that command's port, with the command taken from what is offered and the rest kept in its order. That the first offered
command is the next event where it may start at once (second clause) is the model's choice of a schedule, where
20_memory.md section 3 leaves the order of ports P and S open (log 4). -/
def Obligations.StepRunsTheDecodedInstruction : Prop :=
  (∀ (s : State) (k : Picked) (p : Port) (tr : Transaction) (i : Instr),
    s.cfg.legal = true → s.nextEvent = some k → k.event = .command p tr → decode tr = .ok i →
    step s = exec i { s with cur := p, inbox := k.waiting ++ k.later }) ∧
  (∀ (s : State) (p : Port) (tr : Transaction) (rest : List Event),
    s.inbox = .command p tr :: rest → StartsAtOnce s p tr →
    s.nextEvent = some ⟨[], .command p tr, rest⟩)

/-- While a command of port P is in progress, no command of port P starts and no SET_* of port S does, wherever it stands
among what is offered; where nothing else is offered the block waits (section 3). That a SET_* is told by its OP alone, so
that a malformed one is held back too, is the model's choice (log 5), and so is that the block waits by a step that changes
nothing (log 8). -/
def Obligations.BusyPortHoldsCommands : Prop :=
  ∀ s : State, s.cfg.legal = true → s.inProgress.isSome = true →
    (∀ k, s.nextEvent = some k →
      (∀ tr, k.event ≠ .command .producer tr) ∧
      ∀ tr, k.event = .command .status tr → isConfigWrite tr = false) ∧
    ((∀ e ∈ s.inbox, (∃ tr, e = .command .producer tr) ∨ ∃ tr, e = .command .status tr ∧ isConfigWrite tr = true) →
      step s = .next s)

/-- Within one port commands take effect in issue order (section 3): the event taken is one of those offered, the others
stay in their order, and no event before it is of its port. That the events stand in one list, which says what takes effect
first, and that a reset is one of them, is the model's choice (log 4, log 11). -/
def Obligations.PortOrderIsKept : Prop :=
  ∀ (s : State) (k : Picked), s.nextEvent = some k →
    s.inbox = k.waiting ++ k.event :: k.later ∧
    ∀ p tr, k.event = .command p tr → ∀ e ∈ k.waiting, ∃ p' tr', e = .command p' tr' ∧ p' ≠ p

/-- Every command that starts is answered once on its port, but that the ADD_DATA that enters a dispatch is answered by
the DONE that ends it (30_encoding.md section 1); the order of the two answers that DONE then gives is the model's choice
(log 7). -/
def Obligations.EveryCommandIsAnsweredOnce : Prop :=
  ∀ (s t : State) (k : Picked) (p : Port) (tr : Transaction),
    s.arch.phase = .idle ∨ p ≠ .producer →
    s.nextEvent = some k → k.event = .command p tr → step s = .next t →
    (∃ r, t.outbox = s.outbox ++ [⟨p, r⟩] ∧ t.inProgress = s.inProgress) ∨
    (p = .producer ∧ t.outbox = s.outbox ∧ t.arch.phase = .dispatch ∧ t.inProgress.isSome = true) ∨
    (p = .consumer ∧ s.arch.phase = .dispatch ∧ t.inProgress = none ∧
      ∃ r r', t.outbox = s.outbox ++ [⟨.consumer, r⟩, ⟨.producer, r'⟩])

/-- From a legal build, as long as the agents offer only transactions with the words their OP takes and resets to legal
builds, a step always answers a next state, of which the same holds: the machine never stops. -/
def Obligations.ProperUseNeverStops : Prop :=
  ∀ s : State, s.cfg.legal = true → s.properInbox = true →
    ∃ t, step s = .next t ∧ t.cfg.legal = true ∧ t.properInbox = true

/-- A transaction with too few or too many words stops the step by a fault (the model's choice, log 9: the spec says
there is none). -/
def Obligations.MisframedTransactionFaults : Prop :=
  ∀ (t : Transaction) (s : State), t.framed = false → serve t s = .fault .misframedTransaction

/-- The build parameters are fixed for the whole run: only a reset changes them (00_scope.md section 4;
70_reset_and_hazards.md section 1). -/
def Obligations.ParametersAreFixed : Prop :=
  ∀ s t : State, step s = .next t →
    t.cfg = s.cfg ∨ ∃ k c, s.nextEvent = some k ∧ k.event = .reset c ∧ t.cfg = c

/-! ### Reset (70_reset_and_hazards.md) -/

/-- R97: the state after reset, for every build. -/
def Obligations.ResetLeavesTheStatedValues : Prop :=
  ∀ c : Config,
    (State.resetWith c).cfg = c ∧ (State.resetWith c).arch.chans.length = c.nChannels ∧
    (∀ i, i < c.nChannels →
      Memory.chan (State.resetWith c).arch.chans i =
        { queue := [], nsc := 0, maxSize := c.defaultMaxSize, enabled := c.defaultEnabled }) ∧
    (c.mode = .cpi → (State.resetWith c).arch.cpiSpan = c.defaultCpiSpan) ∧
    (State.resetWith c).arch.phase = .idle ∧ (State.resetWith c).arch.dkind = .none ∧
    (State.resetWith c).inProgress = none ∧ (State.resetWith c).inbox = []

/-- A reset abandons work in progress, a dispatch included, and the commands that wait before it, all without a response:
every item takes its reset value with the parameters of the new construction (section 1). It may take effect at once, and
also behind commands that are held: port P's next ones and the SET_* of port S. That the waiting commands are those that
stand before it, that what is offered later stays offered, and that the record of responses stays, is the model's choice
(log 11), and so is that a held SET_* is told by its OP alone (log 5). -/
def Obligations.ResetAbandonsWorkInProgress : Prop :=
  (∀ (s : State) (c : Config) (k : Picked), s.cfg.legal = true → c.legal = true →
    s.nextEvent = some k → k.event = .reset c →
    step s = .next { State.resetWith c with inbox := k.later, outbox := s.outbox }) ∧
  (∀ (s : State) (c : Config) (rest : List Event), s.inbox = .reset c :: rest →
    s.nextEvent = some ⟨[], .reset c, rest⟩) ∧
  (∀ (s : State) (c : Config) (waiting rest : List Event), s.inProgress.isSome = true →
    s.inbox = waiting ++ .reset c :: rest →
    (∀ e ∈ waiting, (∃ tr, e = .command .producer tr) ∨ ∃ tr, e = .command .status tr ∧ isConfigWrite tr = true) →
    s.nextEvent = some ⟨waiting, .reset c, rest⟩)

/-- A build that R99 does not admit is refused, at every step and at a reset to it, wherever it stands (section 1). -/
def Obligations.IllegalBuildIsRefused : Prop :=
  (∀ s : State, (s.cfg.nChannels = 0 ∨ 65536 < s.cfg.nChannels ∨ s.cfg.maxSizeLimit = 0 ∨ s.cfg.defaultMaxSize = 0 ∨
      s.cfg.maxSizeLimit < s.cfg.defaultMaxSize ∨ (s.cfg.mode = .cpi ∧ s.cfg.defaultCpiSpan = 0)) →
    step s = .refused .illegalConfiguration) ∧
  (∀ (s : State) (c : Config) (k : Picked), s.nextEvent = some k → k.event = .reset c → c.legal = false →
    step s = .refused .illegalConfiguration)

/-! ### Whole-machine statements -/

/-- The invariant holds after reset, for every legal build, and at `State.reset` (whose build is the model's choice,
log 1). -/
def Obligations.InvariantHoldsAtReset : Prop :=
  (∀ c : Config, c.legal = true → (State.resetWith c).inv = true) ∧ State.reset.inv = true

/-- Every step keeps the invariant: lengths within bounds, NSC following the fronts, bounds and span legal, disabled
channels empty, PHASE and DKIND in agreement, and a command of port P in progress exactly during a dispatch
(10_state.md). -/
def Obligations.EveryStepKeepsTheInvariant : Prop :=
  ∀ s t : State, s.inv = true → step s = .next t → t.inv = true

/-- The payload is opaque (00_scope.md section 4; 10_state.md section 1): any change of payloads, made before an instruction
or after it, comes to the same, so no decision reads one and each is returned as it was stored. -/
def Obligations.PayloadIsOpaque : Prop :=
  ∀ (f : Payload → Payload) (i : Instr) (s : State),
    exec (mapInstrPayload f i) (s.mapPayload f) = mapOutcomePayload f (exec i s)
end

