-- ==== Sys2Proof/Laws/State.lean ====
section
/-! SUPPORT. The small lemmas of the state: one per field per update, so that no later proof unfolds a record update. -/

namespace Sys2Proof.Machine

section
variable (s : State) (p : Port) (r : Response)

@[simp] theorem State.respond_cfg : (s.respond p r).cfg = s.cfg := rfl
@[simp] theorem State.respond_arch : (s.respond p r).arch = s.arch := rfl
@[simp] theorem State.respond_inProgress : (s.respond p r).inProgress = s.inProgress := rfl
@[simp] theorem State.respond_boundaries : (s.respond p r).boundaries = s.boundaries := rfl
@[simp] theorem State.respond_cur : (s.respond p r).cur = s.cur := rfl
@[simp] theorem State.respond_inbox : (s.respond p r).inbox = s.inbox := rfl
@[simp] theorem State.respond_outbox : (s.respond p r).outbox = s.outbox ++ [⟨p, r⟩] := rfl
@[simp] theorem State.respond_draws : (s.respond p r).draws = s.draws := rfl

end

section
variable (s : State) (e : Status)

@[simp] theorem State.raise_cfg : (s.raise e).cfg = s.cfg := rfl
@[simp] theorem State.raise_arch : (s.raise e).arch = s.arch := rfl
@[simp] theorem State.raise_inProgress : (s.raise e).inProgress = s.inProgress := rfl
@[simp] theorem State.raise_boundaries : (s.raise e).boundaries = s.boundaries := rfl
@[simp] theorem State.raise_cur : (s.raise e).cur = s.cur := rfl
@[simp] theorem State.raise_inbox : (s.raise e).inbox = s.inbox := rfl
@[simp] theorem State.raise_outbox : (s.raise e).outbox = s.outbox ++ [⟨s.cur, errorResponse e⟩] := rfl
@[simp] theorem State.raise_draws : (s.raise e).draws = s.draws := rfl

end

section
variable (s : State) (a : Arch)

@[simp] theorem State.commit_cfg : (s.commit a).cfg = s.cfg := rfl
@[simp] theorem State.commit_arch : (s.commit a).arch = a := rfl
@[simp] theorem State.commit_inProgress : (s.commit a).inProgress = s.inProgress := rfl
@[simp] theorem State.commit_boundaries : (s.commit a).boundaries = if s.inProgress.isSome then s.boundaries ++ [s.arch] else s.boundaries := rfl
@[simp] theorem State.commit_cur : (s.commit a).cur = s.cur := rfl
@[simp] theorem State.commit_inbox : (s.commit a).inbox = s.inbox := rfl
@[simp] theorem State.commit_outbox : (s.commit a).outbox = s.outbox := rfl
@[simp] theorem State.commit_draws : (s.commit a).draws = s.draws := rfl

end

section
variable (s : State) (i : Instr) (a : Arch)

@[simp] theorem State.enterDispatch_cfg : (s.enterDispatch i a).cfg = s.cfg := rfl
@[simp] theorem State.enterDispatch_arch : (s.enterDispatch i a).arch = a := rfl
@[simp] theorem State.enterDispatch_inProgress : (s.enterDispatch i a).inProgress = some i := rfl
@[simp] theorem State.enterDispatch_boundaries : (s.enterDispatch i a).boundaries = [s.arch] := rfl
@[simp] theorem State.enterDispatch_cur : (s.enterDispatch i a).cur = s.cur := rfl
@[simp] theorem State.enterDispatch_inbox : (s.enterDispatch i a).inbox = s.inbox := rfl
@[simp] theorem State.enterDispatch_outbox : (s.enterDispatch i a).outbox = s.outbox := rfl
@[simp] theorem State.enterDispatch_draws : (s.enterDispatch i a).draws = s.draws := rfl

end

section
variable (s : State)

@[simp] theorem State.leaveDispatch_cfg : s.leaveDispatch.cfg = s.cfg := rfl
@[simp] theorem State.leaveDispatch_arch : s.leaveDispatch.arch = s.arch.dispatchReturn := rfl
@[simp] theorem State.leaveDispatch_inProgress : s.leaveDispatch.inProgress = none := rfl
@[simp] theorem State.leaveDispatch_boundaries : s.leaveDispatch.boundaries = [] := rfl
@[simp] theorem State.leaveDispatch_cur : s.leaveDispatch.cur = s.cur := rfl
@[simp] theorem State.leaveDispatch_inbox : s.leaveDispatch.inbox = s.inbox := rfl
@[simp] theorem State.leaveDispatch_outbox : s.leaveDispatch.outbox = s.outbox := rfl
@[simp] theorem State.leaveDispatch_draws : s.leaveDispatch.draws = s.draws := rfl

end

section
variable (s : State)

@[simp] theorem State.afterRead_cfg : s.afterRead.cfg = s.cfg := rfl
@[simp] theorem State.afterRead_arch : s.afterRead.arch = s.arch := rfl
@[simp] theorem State.afterRead_inProgress : s.afterRead.inProgress = s.inProgress := rfl
@[simp] theorem State.afterRead_boundaries : s.afterRead.boundaries = s.boundaries := rfl
@[simp] theorem State.afterRead_cur : s.afterRead.cur = s.cur := rfl
@[simp] theorem State.afterRead_inbox : s.afterRead.inbox = s.inbox := rfl
@[simp] theorem State.afterRead_outbox : s.afterRead.outbox = s.outbox := rfl
@[simp] theorem State.afterRead_draws : s.afterRead.draws = if s.relaxed then s.draws + 1 else s.draws := rfl

end

section
variable (s : State) (p : Port) (k : Picked)

@[simp] theorem State.atPort_cfg : (s.atPort p k).cfg = s.cfg := rfl
@[simp] theorem State.atPort_arch : (s.atPort p k).arch = s.arch := rfl
@[simp] theorem State.atPort_inProgress : (s.atPort p k).inProgress = s.inProgress := rfl
@[simp] theorem State.atPort_boundaries : (s.atPort p k).boundaries = s.boundaries := rfl
@[simp] theorem State.atPort_cur : (s.atPort p k).cur = p := rfl
@[simp] theorem State.atPort_inbox : (s.atPort p k).inbox = k.waiting ++ k.later := rfl
@[simp] theorem State.atPort_outbox : (s.atPort p k).outbox = s.outbox := rfl
@[simp] theorem State.atPort_draws : (s.atPort p k).draws = s.draws := rfl

end

section
variable (s : State) (c : Config) (k : Picked)

@[simp] theorem State.resetTo_cfg : (s.resetTo c k).cfg = c := rfl
@[simp] theorem State.resetTo_arch : (s.resetTo c k).arch = Arch.initial c := rfl
@[simp] theorem State.resetTo_inProgress : (s.resetTo c k).inProgress = none := rfl
@[simp] theorem State.resetTo_boundaries : (s.resetTo c k).boundaries = [] := rfl
@[simp] theorem State.resetTo_cur : (s.resetTo c k).cur = .producer := rfl
@[simp] theorem State.resetTo_inbox : (s.resetTo c k).inbox = k.later := rfl
@[simp] theorem State.resetTo_outbox : (s.resetTo c k).outbox = s.outbox := rfl
@[simp] theorem State.resetTo_draws : (s.resetTo c k).draws = 0 := rfl

end

section
variable (s : State) (t : Transaction)

@[simp] theorem State.offer_cfg : (s.offer t).cfg = s.cfg := rfl
@[simp] theorem State.offer_arch : (s.offer t).arch = s.arch := rfl
@[simp] theorem State.offer_inProgress : (s.offer t).inProgress = s.inProgress := rfl
@[simp] theorem State.offer_boundaries : (s.offer t).boundaries = s.boundaries := rfl
@[simp] theorem State.offer_cur : (s.offer t).cur = s.cur := rfl
@[simp] theorem State.offer_inbox : (s.offer t).inbox = .command (s.freePort t) t :: s.inbox := rfl
@[simp] theorem State.offer_outbox : (s.offer t).outbox = s.outbox := rfl
@[simp] theorem State.offer_draws : (s.offer t).draws = s.draws := rfl

end

section
variable (a : Arch) (m : Memory)

@[simp] theorem Arch.withChans_chans : (a.withChans m).chans = m := rfl
@[simp] theorem Arch.withChans_cpiSpan : (a.withChans m).cpiSpan = a.cpiSpan := rfl
@[simp] theorem Arch.withChans_phase : (a.withChans m).phase = a.phase := rfl
@[simp] theorem Arch.withChans_dkind : (a.withChans m).dkind = a.dkind := rfl

end

section
variable (a : Arch) (kind : DispatchKind)

@[simp] theorem Arch.dispatchEnter_chans : (a.dispatchEnter kind).chans = a.chans := rfl
@[simp] theorem Arch.dispatchEnter_cpiSpan : (a.dispatchEnter kind).cpiSpan = a.cpiSpan := rfl
@[simp] theorem Arch.dispatchEnter_phase : (a.dispatchEnter kind).phase = .dispatch := rfl
@[simp] theorem Arch.dispatchEnter_dkind : (a.dispatchEnter kind).dkind = kind := rfl

end

section
variable (a : Arch)

@[simp] theorem Arch.dispatchReturn_chans : a.dispatchReturn.chans = a.chans := rfl
@[simp] theorem Arch.dispatchReturn_cpiSpan : a.dispatchReturn.cpiSpan = a.cpiSpan := rfl
@[simp] theorem Arch.dispatchReturn_phase : a.dispatchReturn.phase = .idle := rfl
@[simp] theorem Arch.dispatchReturn_dkind : a.dispatchReturn.dkind = .none := rfl

end

section
variable (c : Channel)

@[simp] theorem Channel.popFront_queue : c.popFront.queue = c.queue.tail := rfl
@[simp] theorem Channel.popFront_nsc : c.popFront.nsc = frontSeq c.queue.tail := rfl
@[simp] theorem Channel.popFront_maxSize : c.popFront.maxSize = c.maxSize := rfl
@[simp] theorem Channel.popFront_enabled : c.popFront.enabled = c.enabled := rfl

end

section
variable (c : Channel)

@[simp] theorem Channel.clear_queue : c.clear.queue = [] := rfl
@[simp] theorem Channel.clear_nsc : c.clear.nsc = 0 := rfl
@[simp] theorem Channel.clear_maxSize : c.clear.maxSize = c.maxSize := rfl
@[simp] theorem Channel.clear_enabled : c.clear.enabled = c.enabled := rfl

end

section
variable (c : Channel) (e : Entry)

@[simp] theorem Channel.append_queue : (c.append e).queue = c.queue ++ [e] := rfl
@[simp] theorem Channel.append_nsc : (c.append e).nsc = if c.queue.isEmpty then e.seq else c.nsc := rfl
@[simp] theorem Channel.append_maxSize : (c.append e).maxSize = c.maxSize := rfl
@[simp] theorem Channel.append_enabled : (c.append e).enabled = c.enabled := rfl

end

section
variable (c : Config)

@[simp] theorem State.resetWith_cfg : (State.resetWith c).cfg = c := rfl
@[simp] theorem State.resetWith_arch : (State.resetWith c).arch = Arch.initial c := rfl
@[simp] theorem State.resetWith_inProgress : (State.resetWith c).inProgress = none := rfl
@[simp] theorem State.resetWith_boundaries : (State.resetWith c).boundaries = [] := rfl
@[simp] theorem State.resetWith_cur : (State.resetWith c).cur = .producer := rfl
@[simp] theorem State.resetWith_inbox : (State.resetWith c).inbox = [] := rfl
@[simp] theorem State.resetWith_outbox : (State.resetWith c).outbox = [] := rfl
@[simp] theorem State.resetWith_draws : (State.resetWith c).draws = 0 := rfl
@[simp] theorem Arch.initial_chans : (Arch.initial c).chans = List.replicate c.nChannels (Channel.initial c) := rfl
@[simp] theorem Arch.initial_cpiSpan : (Arch.initial c).cpiSpan = initialSpan c := rfl
@[simp] theorem Arch.initial_phase : (Arch.initial c).phase = .idle := rfl
@[simp] theorem Arch.initial_dkind : (Arch.initial c).dkind = .none := rfl
@[simp] theorem Channel.initial_queue : (Channel.initial c).queue = [] := rfl
@[simp] theorem Channel.initial_nsc : (Channel.initial c).nsc = 0 := rfl
@[simp] theorem Channel.initial_maxSize : (Channel.initial c).maxSize = c.defaultMaxSize := rfl
@[simp] theorem Channel.initial_enabled : (Channel.initial c).enabled = c.defaultEnabled := rfl

end

end Sys2Proof.Machine
end

