-- ==== Sys2Proof/Laws/Queue.lean ====
section
/-! SUPPORT. What the primitives on one channel do, once for each (40_buffer.md R51 to R56), and that each keeps the
channel's invariants (R16, R17, R18, R20). -/

namespace Sys2Proof.Machine

@[simp] theorem frontSeq_nil : frontSeq [] = 0 := rfl
@[simp] theorem frontSeq_cons (e : Entry) (q : List Entry) : frontSeq (e :: q) = e.seq := rfl

@[simp] theorem older_self (threshold f : Word) : older threshold f f = false := by
  simp [older]

/-- `newer` is `older` with its arguments exchanged (R65). -/
theorem newer_eq_older (threshold v m : Word) : newer threshold v m = older threshold m v := rfl

/-! ### Trim -/

theorem Channel.trimLoop_spec (n : Nat) (c : Channel) (h : c.queue.length ≤ n) :
    Channel.trimLoop n c =
      if c.queue.length ≤ c.maxSize.toNat then c
      else { c with queue := c.queue.drop (c.queue.length - c.maxSize.toNat)
                    nsc := frontSeq (c.queue.drop (c.queue.length - c.maxSize.toNat)) } := by
  induction n generalizing c with
  | zero =>
    have : c.queue.length ≤ c.maxSize.toNat := by omega
    simp [Channel.trimLoop, this]
  | succ n ih =>
    unfold Channel.trimLoop
    by_cases hl : c.queue.length ≤ c.maxSize.toNat
    · simp [hl, Nat.not_lt.mpr hl]
    · have hgt : c.queue.length > c.maxSize.toNat := by omega
      rw [if_pos hgt, if_neg hl, ih c.popFront (by simp; omega)]
      rcases hq : c.queue with _ | ⟨e, q⟩
      · simp [hq] at hgt
      · simp only [Channel.popFront_queue, hq, List.tail_cons, Channel.popFront_maxSize, List.length_cons]
        simp only [hq, List.length_cons] at hl
        split
        · next hle =>
          have h1 : q.length + 1 - c.maxSize.toNat = 1 := by omega
          simp [Channel.popFront, h1, hq]
        · next hle =>
          have h1 : q.length + 1 - c.maxSize.toNat = (q.length - c.maxSize.toNat) + 1 := by omega
          simp [Channel.popFront, h1]

/-- Everything `Trim` does (R53). -/
theorem Channel.trim_spec (c : Channel) :
    c.trim =
      if c.queue.length ≤ c.maxSize.toNat then c
      else { c with queue := c.queue.drop (c.queue.length - c.maxSize.toNat)
                    nsc := frontSeq (c.queue.drop (c.queue.length - c.maxSize.toNat)) } :=
  Channel.trimLoop_spec _ c le_rfl

@[simp] theorem Channel.trim_maxSize (c : Channel) : c.trim.maxSize = c.maxSize := by
  rw [Channel.trim_spec]; split <;> rfl

@[simp] theorem Channel.trim_enabled (c : Channel) : c.trim.enabled = c.enabled := by
  rw [Channel.trim_spec]; split <;> rfl

theorem Channel.trim_queue (c : Channel) :
    c.trim.queue = c.queue.drop (c.queue.length - c.maxSize.toNat) := by
  rw [Channel.trim_spec]
  split
  · next h => simp [Nat.sub_eq_zero_of_le h]
  · rfl

theorem Channel.trim_nsc (c : Channel) (h : c.nsc = frontSeq c.queue) : c.trim.nsc = frontSeq c.trim.queue := by
  rw [Channel.trim_spec]
  split
  · exact h
  · rfl

theorem Channel.trim_length (c : Channel) : c.trim.queue.length ≤ c.maxSize.toNat := by
  rw [Channel.trim_queue, List.length_drop]; omega

/-! ### Prune -/

theorem Channel.pruneLoop_spec (threshold t : Word) (n : Nat) (c : Channel) (h : c.queue.length ≤ n) :
    Channel.pruneLoop threshold t n c =
      { c with queue := c.queue.dropWhile (fun e => older threshold e.seq t)
               nsc := if (c.queue.head?.elim false fun e => older threshold e.seq t) then
                   frontSeq (c.queue.dropWhile (fun e => older threshold e.seq t)) else c.nsc } := by
  induction n generalizing c with
  | zero =>
    have : c.queue = [] := List.eq_nil_of_length_eq_zero (by omega)
    simp [Channel.pruneLoop, this]
    cases c; simp_all
  | succ n ih =>
    unfold Channel.pruneLoop
    rcases hq : c.queue with _ | ⟨e, q⟩
    · cases c; simp_all
    · by_cases ho : older threshold e.seq t = true
      · simp only [ho, if_true]
        rw [ih c.popFront (by simp [hq] at h ⊢; omega)]
        simp only [Channel.popFront, hq, List.tail_cons, List.dropWhile_cons, ho, if_true, List.head?_cons,
          Option.elim_some]
        rcases q with _ | ⟨e2, q2⟩
        · simp
        · by_cases h2 : older threshold e2.seq t = true <;> simp [h2]
      · simp only [Bool.not_eq_true] at ho
        simp [ho]
        cases c; simp_all

/-- Everything the state part of `Prune` does (R54). -/
theorem Channel.prune_spec (threshold t : Word) (c : Channel) :
    c.prune threshold t =
      { c with queue := c.queue.dropWhile (fun e => older threshold e.seq t)
               nsc := if (c.queue.head?.elim false fun e => older threshold e.seq t) then
                   frontSeq (c.queue.dropWhile (fun e => older threshold e.seq t)) else c.nsc } :=
  Channel.pruneLoop_spec threshold t _ c le_rfl

@[simp] theorem Channel.prune_queue (threshold t : Word) (c : Channel) :
    (c.prune threshold t).queue = c.queue.dropWhile (fun e => older threshold e.seq t) := by
  rw [Channel.prune_spec]

@[simp] theorem Channel.prune_maxSize (threshold t : Word) (c : Channel) :
    (c.prune threshold t).maxSize = c.maxSize := by
  rw [Channel.prune_spec]

@[simp] theorem Channel.prune_enabled (threshold t : Word) (c : Channel) :
    (c.prune threshold t).enabled = c.enabled := by
  rw [Channel.prune_spec]

theorem Channel.prune_nsc (threshold t : Word) (c : Channel) (h : c.nsc = frontSeq c.queue) :
    (c.prune threshold t).nsc = frontSeq (c.prune threshold t).queue := by
  rw [Channel.prune_spec]
  rcases hq : c.queue with _ | ⟨e, q⟩
  · simp [h, hq]
  · by_cases ho : older threshold e.seq t = true
    · simp [ho]
    · simp only [Bool.not_eq_true] at ho
      simp [ho, h, hq]

theorem Channel.frontIs_iff (c : Channel) (t : Word) :
    c.frontIs t = true ↔ ∃ e q, c.queue = e :: q ∧ e.seq = t := by
  unfold Channel.frontIs
  split
  · next h => simp [h]
  · next e q h => simp [h]

/-! ### Each primitive keeps the channel's invariants -/

theorem Channel.wf_iff (cfg : Config) (c : Channel) :
    Channel.wf cfg c = true ↔
      c.queue.length ≤ c.maxSize.toNat ∧ c.nsc = frontSeq c.queue ∧ sizeLegal cfg c.maxSize = true ∧
        (c.enabled = false → c.queue = []) := by
  simp only [Channel.wf, Bool.and_eq_true, decide_eq_true_eq, Bool.or_eq_true, List.isEmpty_iff]
  constructor
  · rintro ⟨⟨⟨h1, h2⟩, h3⟩, h4⟩
    exact ⟨h1, h2, h3, fun h => by simpa [h] using h4⟩
  · rintro ⟨h1, h2, h3, h4⟩
    refine ⟨⟨⟨h1, h2⟩, h3⟩, ?_⟩
    cases h : c.enabled
    · exact .inr (h4 h)
    · exact .inl rfl

theorem Channel.prune_wf {cfg : Config} {c : Channel} (threshold t : Word) (h : Channel.wf cfg c = true) :
    Channel.wf cfg (c.prune threshold t) = true := by
  rw [Channel.wf_iff] at h ⊢
  obtain ⟨h1, h2, h3, h4⟩ := h
  refine ⟨?_, Channel.prune_nsc _ _ _ h2, by simpa using h3, ?_⟩
  · have : (c.queue.dropWhile (fun e => older threshold e.seq t)).length ≤ c.queue.length :=
      (List.dropWhile_suffix _).length_le
    simp only [Channel.prune_queue, Channel.prune_maxSize]
    omega
  · intro he
    simp [h4 (by simpa using he)]

theorem Channel.popFront_wf {cfg : Config} {c : Channel} (h : Channel.wf cfg c = true) :
    Channel.wf cfg c.popFront = true := by
  rw [Channel.wf_iff] at h ⊢
  obtain ⟨h1, h2, h3, h4⟩ := h
  refine ⟨?_, rfl, h3, fun he => by simp [h4 he]⟩
  simp only [Channel.popFront_queue, List.length_tail, Channel.popFront_maxSize]
  omega

theorem Channel.clear_wf {cfg : Config} {c : Channel} (h : Channel.wf cfg c = true) :
    Channel.wf cfg c.clear = true := by
  rw [Channel.wf_iff] at h ⊢
  exact ⟨by simp, rfl, h.2.2.1, fun _ => rfl⟩

theorem Channel.accept_wf {cfg : Config} {c : Channel} (e : Entry) (hen : c.enabled = true)
    (h : Channel.wf cfg c = true) : Channel.wf cfg (c.accept e) = true := by
  rw [Channel.wf_iff] at h ⊢
  obtain ⟨_, h2, h3, _⟩ := h
  refine ⟨?_, Channel.trim_nsc _ ?_, by simpa [Channel.accept] using h3, ?_⟩
  · simpa [Channel.accept] using (c.append e).trim_length
  · rcases hq : c.queue with _ | ⟨e2, q⟩ <;> simp [hq, h2]
  · simp [Channel.accept, hen]

theorem Channel.setBound_wf {cfg : Config} {c : Channel} {n : Word} (hn : sizeLegal cfg n = true)
    (h : Channel.wf cfg c = true) : Channel.wf cfg (c.setBound n) = true := by
  rw [Channel.wf_iff] at h ⊢
  obtain ⟨_, h2, _, h4⟩ := h
  refine ⟨?_, Channel.trim_nsc _ h2, by simpa [Channel.setBound] using hn, ?_⟩
  · have := Channel.trim_length { c with maxSize := n }
    simpa [Channel.setBound] using this
  · intro he
    have : c.queue = [] := h4 (by simpa [Channel.setBound] using he)
    simp [Channel.setBound, Channel.trim_queue, this]

theorem Channel.setEnable_wf {cfg : Config} {c : Channel} (v : Bool) (h : Channel.wf cfg c = true) :
    Channel.wf cfg (c.setEnable v) = true := by
  unfold Channel.setEnable
  split
  · rw [Channel.wf_iff] at h ⊢
    exact ⟨by simp, rfl, h.2.2.1, fun _ => rfl⟩
  · exact h

/-! ### The storage -/

theorem Memory.wf_iff (cfg : Config) (m : Memory) :
    Memory.wf cfg m = true ↔ m.length = cfg.nChannels ∧ ∀ c ∈ m, Channel.wf cfg c = true := by
  simp [Memory.wf, List.all_eq_true]

/-- Changing every channel by a function that keeps the invariants keeps the form of the storage. -/
theorem Memory.map_wf {cfg : Config} {m : Memory} (f : Channel → Channel)
    (hf : ∀ c, Channel.wf cfg c = true → Channel.wf cfg (f c) = true) (h : Memory.wf cfg m = true) :
    Memory.wf cfg (m.map f) = true := by
  rw [Memory.wf_iff] at h ⊢
  refine ⟨by simpa using h.1, ?_⟩
  intro c hc
  obtain ⟨c', hc', rfl⟩ := List.mem_map.mp hc
  exact hf c' (h.2 c' hc')

theorem Memory.length_update (m : Memory) (i : Nat) (f : Channel → Channel) :
    (Memory.update m i f).length = m.length := by
  simp [Memory.update]

/-- Reading channel j after changing channel i. -/
theorem Memory.chan_update (m : Memory) (i j : Nat) (f : Channel → Channel) :
    Memory.chan (Memory.update m i f) j =
      if i = j ∧ i < m.length then f (Memory.chan m j) else Memory.chan m j := by
  unfold Memory.chan Memory.update
  rw [List.getElem?_modify]
  by_cases hij : i = j
  · subst hij
    by_cases hlt : i < m.length
    · simp [hlt]
    · simp [hlt]
  · simp [hij]

/-- Changing one channel by a function that keeps the invariants there keeps the form of the storage. -/
theorem Memory.update_wf {cfg : Config} {m : Memory} (i : Nat) (f : Channel → Channel)
    (hf : Channel.wf cfg (Memory.chan m i) = true → Channel.wf cfg (f (Memory.chan m i)) = true)
    (h : Memory.wf cfg m = true) : Memory.wf cfg (Memory.update m i f) = true := by
  rw [Memory.wf_iff] at h ⊢
  refine ⟨by rw [Memory.length_update]; exact h.1, ?_⟩
  intro c hc
  obtain ⟨j, hj, rfl⟩ := List.getElem_of_mem hc
  have hjm : j < m.length := by simpa [Memory.length_update] using hj
  have hget : (Memory.update m i f)[j] = Memory.chan (Memory.update m i f) j := by
    simp [Memory.chan, List.getElem?_eq_getElem hj]
  have hold : Memory.chan m j = m[j] := by simp [Memory.chan, List.getElem?_eq_getElem hjm]
  rw [hget, Memory.chan_update]
  split
  · next hij =>
    obtain ⟨rfl, _⟩ := hij
    exact hf (by rw [hold]; exact h.2 _ (List.getElem_mem hjm))
  · rw [hold]; exact h.2 _ (List.getElem_mem hjm)

theorem Memory.chan_wf {cfg : Config} {m : Memory} {i : Nat} (h : Memory.wf cfg m = true) (hi : i < cfg.nChannels) :
    Channel.wf cfg (Memory.chan m i) = true := by
  rw [Memory.wf_iff] at h
  have hlt : i < m.length := by omega
  have : Memory.chan m i = m[i] := by simp [Memory.chan, List.getElem?_eq_getElem hlt]
  rw [this]
  exact h.2 _ (List.getElem_mem hlt)

/-- The storage after reset has its form, for every legal build. -/
theorem Memory.initial_wf {cfg : Config} (h : cfg.legal = true) : Memory.wf cfg (Arch.initial cfg).chans = true := by
  rw [Memory.wf_iff]
  refine ⟨by simp, ?_⟩
  intro c hc
  have : c = Channel.initial cfg := (List.mem_replicate.mp (by simpa using hc)).2
  subst this
  simp only [Config.legal, Bool.and_eq_true, decide_eq_true_eq] at h
  rw [Channel.wf_iff]
  refine ⟨by simp, rfl, ?_, fun _ => rfl⟩
  have hpos : cfg.defaultMaxSize ≠ 0 := h.1.1.2
  exact (Bool.and_eq_true _ _).mpr ⟨decide_eq_true hpos, decide_eq_true h.1.2⟩

theorem Memory.reset_wf : Memory.wf State.reset.cfg State.reset.arch.chans = true :=
  Memory.initial_wf (by decide)

end Sys2Proof.Machine
end

