-- ==== Sys2Proof/Laws/Align.lean ====
section
/-! SUPPORT. What the alignment pass and the CPI pass do to the storage, once for each (41_alignment.md R65, R66;
42_cpi.md R74 to R79), and that each keeps its form. -/

namespace Sys2Proof.Machine

/-! ### The target -/

@[simp] theorem computeTarget_nil (threshold : Word) : computeTarget threshold [] = none := rfl

theorem targetStep_skip (threshold : Word) (acc : Option Word) (c : Channel)
    (h : c.enabled = false ∨ c.queue = []) : targetStep threshold acc c = acc := by
  unfold targetStep
  rcases h with h | h <;> simp [h]

/-- A turn of the fold keeps a target that is there. -/
theorem targetStep_some (threshold m : Word) (c : Channel) :
    ∃ m', targetStep threshold (some m) c = some m' := by
  unfold targetStep
  split
  · by_cases h : newer threshold c.nsc m = true
    · exact ⟨c.nsc, if_pos h⟩
    · exact ⟨m, if_neg h⟩
  · exact ⟨m, rfl⟩

/-- What the fold gives is the value it began with, or the NSC of an enabled, non-empty channel. -/
theorem foldl_targetStep_origin (threshold : Word) (m : Memory) (acc : Option Word) (t : Word)
    (h : m.foldl (targetStep threshold) acc = some t) :
    acc = some t ∨ ∃ c ∈ m, c.enabled = true ∧ c.queue ≠ [] ∧ c.nsc = t := by
  induction m generalizing acc with
  | nil => exact .inl h
  | cons c m ih =>
    rcases ih (targetStep threshold acc c) h with hacc | ⟨c', hc', hrest⟩
    · unfold targetStep at hacc
      split at hacc
      · next hc =>
        have hen : c.enabled = true ∧ c.queue ≠ [] := by
          simpa [List.length_pos_iff] using hc
        split at hacc
        · exact .inr ⟨c, List.mem_cons_self, hen.1, hen.2, by simpa using hacc⟩
        · split at hacc
          · exact .inr ⟨c, List.mem_cons_self, hen.1, hen.2, by simpa using hacc⟩
          · exact .inl hacc
      · exact .inl hacc
    · exact .inr ⟨c', List.mem_cons_of_mem _ hc', hrest⟩

/-- The target is the front counter of an enabled, non-empty channel (R65). -/
theorem computeTarget_origin {threshold : Word} {m : Memory} {t : Word} (h : computeTarget threshold m = some t) :
    ∃ c ∈ m, c.enabled = true ∧ c.queue ≠ [] ∧ c.nsc = t := by
  rcases foldl_targetStep_origin threshold m none t h with h | h
  · cases h
  · exact h

/-- One turn of the fold for an enabled channel that holds data (R65). -/
theorem targetStep_holding (threshold : Word) (acc : Option Word) (c : Channel) (hen : c.enabled = true)
    (hq : c.queue ≠ []) :
    targetStep threshold acc c =
      match acc with
      | none => some c.nsc
      | some m => if newer threshold c.nsc m then some c.nsc else some m := by
  have : 0 < c.queue.length := List.length_pos_iff.mpr hq
  unfold targetStep
  exact if_pos (by simp [hen, this])

/-- The fold is in ascending channel order (R65). -/
theorem computeTarget_append (threshold : Word) (m : Memory) (c : Channel) :
    computeTarget threshold (m ++ [c]) = targetStep threshold (computeTarget threshold m) c := by
  simp [computeTarget, List.foldl_append]

/-! ### The alignment pass -/

@[simp] theorem pruneEnabled_enabled (threshold t : Word) (c : Channel) :
    (pruneEnabled threshold t c).enabled = c.enabled := by
  unfold pruneEnabled; split <;> simp

@[simp] theorem pruneEnabled_maxSize (threshold t : Word) (c : Channel) :
    (pruneEnabled threshold t c).maxSize = c.maxSize := by
  unfold pruneEnabled; split <;> simp

theorem pruneEnabled_of_disabled (threshold t : Word) (c : Channel) (h : c.enabled = false) :
    pruneEnabled threshold t c = c := by
  simp [pruneEnabled, h]

theorem pruneEnabled_suffix (threshold t : Word) (c : Channel) :
    (pruneEnabled threshold t c).queue <:+ c.queue := by
  unfold pruneEnabled
  split
  · simpa using List.dropWhile_suffix _
  · exact List.suffix_rfl

theorem pruneEnabled_wf {cfg : Config} (threshold t : Word) (c : Channel) (h : Channel.wf cfg c = true) :
    Channel.wf cfg (pruneEnabled threshold t c) = true := by
  unfold pruneEnabled
  split
  · exact Channel.prune_wf _ _ h
  · exact h

theorem pruneAll_wf {cfg : Config} {m : Memory} (threshold t : Word) (h : Memory.wf cfg m = true) :
    Memory.wf cfg (pruneAll threshold t m) = true :=
  Memory.map_wf _ (pruneEnabled_wf threshold t) h

/-- Everything `AlignPass` does (R66): nothing without a target; else every enabled channel is pruned to it, and the
result says whether all of them then have it as their front. -/
theorem alignPass_cases (threshold : Word) (m : Memory) :
    (computeTarget threshold m = none ∧ alignPass threshold m = (m, false)) ∨
    (∃ t, computeTarget threshold m = some t ∧
      alignPass threshold m = (pruneAll threshold t m, allAt t (pruneAll threshold t m))) := by
  unfold alignPass
  cases h : computeTarget threshold m with
  | none => exact .inl ⟨rfl, rfl⟩
  | some t => exact .inr ⟨t, rfl, rfl⟩

/-- The alignment pass changes each channel on its own, to one with the same registers and a queue that is a rear part
of the one before; a disabled channel not at all. -/
theorem alignPass_pointwise (threshold : Word) (m : Memory) :
    ∃ f : Channel → Channel, (alignPass threshold m).1 = m.map f ∧
      (∀ c, (f c).enabled = c.enabled ∧ (f c).maxSize = c.maxSize ∧ (f c).queue <:+ c.queue) ∧
      (∀ c, c.enabled = false → f c = c) ∧
      (∀ cfg c, Channel.wf cfg c = true → Channel.wf cfg (f c) = true) := by
  rcases alignPass_cases threshold m with ⟨_, h⟩ | ⟨t, _, h⟩
  · exact ⟨id, by simp [h], fun c => ⟨rfl, rfl, List.suffix_rfl⟩, fun _ _ => rfl, fun _ _ h => h⟩
  · refine ⟨pruneEnabled threshold t, by simp [h, pruneAll], fun c => ⟨by simp, by simp, pruneEnabled_suffix _ _ c⟩,
      pruneEnabled_of_disabled _ _, fun cfg c => pruneEnabled_wf _ _ c⟩

/-! ### The CPI pass -/

/-- Everything `CpiCheck` does (R74 to R76): nothing, or, for a rejected channel, a prune. -/
theorem cpiCheck_channel (threshold span : Word) (c : Channel) :
    (cpiCheck threshold span c).2 = c ∨
    ∃ e, (cpiCheck threshold span c) = (.rejected, c.prune threshold e) := by
  unfold cpiCheck
  split
  · exact .inl rfl
  · split
    · exact .inl rfl
    · split
      · exact .inl rfl
      · split
        · exact .inr ⟨_, rfl⟩
        · exact .inl rfl

theorem cpiChannel_of_disabled (threshold span : Word) (c : Channel) (h : c.enabled = false) :
    cpiChannel threshold span c = c := by
  simp [cpiChannel, h]

theorem cpiChannel_spec (threshold span : Word) (c : Channel) :
    (cpiChannel threshold span c).enabled = c.enabled ∧ (cpiChannel threshold span c).maxSize = c.maxSize ∧
      (cpiChannel threshold span c).queue <:+ c.queue := by
  unfold cpiChannel
  split
  · rcases cpiCheck_channel threshold span c with h | ⟨t, h⟩
    · rw [h]; exact ⟨rfl, rfl, List.suffix_rfl⟩
    · rw [h]
      exact ⟨by simp, by simp, by simpa using List.dropWhile_suffix _⟩
  · exact ⟨rfl, rfl, List.suffix_rfl⟩

theorem cpiChannel_wf {cfg : Config} (threshold span : Word) (c : Channel) (h : Channel.wf cfg c = true) :
    Channel.wf cfg (cpiChannel threshold span c) = true := by
  unfold cpiChannel
  split
  · rcases cpiCheck_channel threshold span c with h' | ⟨t, h'⟩
    · rw [h']; exact h
    · rw [h']; exact Channel.prune_wf _ _ h
  · exact h

/-- The position that the boundary scan finds (R75): the first change of code at 1 to span. -/
theorem boundary_eq_some_iff (q : List Entry) (span p : Nat) :
    boundary q span = some p ↔ 1 ≤ p ∧ p ≤ span ∧ q[p]?.map Entry.code ≠ q[p - 1]?.map Entry.code ∧
      ∀ k, 1 ≤ k → k < p → q[k]?.map Entry.code = q[k - 1]?.map Entry.code := by
  unfold boundary
  rw [List.find?_range'_eq_some, List.mem_range'_1]
  constructor
  · rintro ⟨h1, h2, h3⟩
    exact ⟨h2.1, by omega, by simpa [codeChangesAt] using h1, fun k hk hkp => by simpa [codeChangesAt] using h3 k hk hkp⟩
  · rintro ⟨h1, h2, h3, h4⟩
    exact ⟨by simpa [codeChangesAt] using h3, by omega, fun k hk hkp => by simpa [codeChangesAt] using h4 k hk hkp⟩

/-- `allok` says that every enabled channel's verdict is OK (R77). -/
theorem cpiAllOk_iff (threshold span : Word) (m : Memory) :
    cpiAllOk threshold span m = true ↔ AllVerdictsOk threshold span m := by
  unfold cpiAllOk AllVerdictsOk
  rw [List.all_eq_true]
  refine forall₂_congr fun c _ => ?_
  cases hc : c.enabled <;> simp [cpiVerdict, hc]

/-- `anyrej` says that some enabled channel's verdict is REJECTED (R77). -/
theorem cpiAnyRejected_iff (threshold span : Word) (m : Memory) :
    cpiAnyRejected threshold span m = true ↔ SomeVerdictRejected threshold span m := by
  unfold cpiAnyRejected SomeVerdictRejected
  rw [List.any_eq_true]
  refine exists_congr fun c => and_congr_right fun _ => ?_
  cases hc : c.enabled <;> simp [cpiVerdict, hc]

theorem allVerdictsOk_not_rejected {threshold span : Word} {m : Memory} (h : AllVerdictsOk threshold span m) :
    ¬ SomeVerdictRejected threshold span m := by
  rintro ⟨c, hc, hen, hr⟩
  rw [h c hc hen] at hr
  cases hr

/-- A pass that rejects no channel writes nothing (R74 to R76). -/
theorem cpiPass_of_not_rejected {threshold span : Word} {m : Memory} (h : ¬ SomeVerdictRejected threshold span m) :
    cpiPass threshold span m = m := by
  have hid : ∀ c ∈ m, cpiChannel threshold span c = c := by
    intro c hc
    unfold cpiChannel
    split
    · next hen =>
      rcases cpiCheck_channel threshold span c with h' | ⟨t, h'⟩
      · exact h'
      · exact absurd ⟨c, hc, hen, by rw [h']⟩ h
    · rfl
  unfold cpiPass
  rw [List.map_congr_left hid, List.map_id']

/-- Everything one pass of the notification does (R78): nothing more where the alignment pass fails; else the CPI pass,
which dispatches, asks for one more pass, or stops. -/
theorem cpiAttempt_cases (threshold span : Word) (m m1 : Memory) (aligned : Bool)
    (h : alignPass threshold m = (m1, aligned)) :
    (aligned = false ∧ cpiAttempt threshold span m = (m1, .stop)) ∨
    (aligned = true ∧ AllVerdictsOk threshold span m1 ∧ cpiAttempt threshold span m = (m1, .dispatch)) ∨
    (aligned = true ∧ SomeVerdictRejected threshold span m1 ∧
      cpiAttempt threshold span m = (cpiPass threshold span m1, .retry)) ∨
    (aligned = true ∧ ¬ AllVerdictsOk threshold span m1 ∧ ¬ SomeVerdictRejected threshold span m1 ∧
      cpiAttempt threshold span m = (m1, .stop)) := by
  unfold cpiAttempt
  rw [h]
  cases aligned
  · exact .inl ⟨rfl, rfl⟩
  by_cases hok : AllVerdictsOk threshold span m1
  · have hp := cpiPass_of_not_rejected (allVerdictsOk_not_rejected hok)
    exact .inr (.inl ⟨rfl, hok, by simp [(cpiAllOk_iff _ _ _).mpr hok, hp]⟩)
  have hok' := (cpiAllOk_iff threshold span m1).not.mpr hok
  by_cases hr : SomeVerdictRejected threshold span m1
  · exact .inr (.inr (.inl ⟨rfl, hr, by simp [hok', (cpiAnyRejected_iff _ _ _).mpr hr]⟩))
  · have hr' := (cpiAnyRejected_iff threshold span m1).not.mpr hr
    exact .inr (.inr (.inr ⟨rfl, hok, hr, by simp [hok', hr', cpiPass_of_not_rejected hr]⟩))

/-- A change of the storage that the notification may make: each channel on its own, registers kept, the queue a rear
part of the one before, a disabled channel untouched. -/
def PrunedFrom (m m' : Memory) : Prop :=
  ∃ f : Channel → Channel, m' = m.map f ∧
    (∀ c, (f c).enabled = c.enabled ∧ (f c).maxSize = c.maxSize ∧ (f c).queue <:+ c.queue) ∧
    (∀ c, c.enabled = false → f c = c) ∧
    (∀ cfg c, Channel.wf cfg c = true → Channel.wf cfg (f c) = true)

theorem PrunedFrom.refl (m : Memory) : PrunedFrom m m :=
  ⟨id, by simp, fun _ => ⟨rfl, rfl, List.suffix_rfl⟩, fun _ _ => rfl, fun _ _ h => h⟩

theorem PrunedFrom.trans {m1 m2 m3 : Memory} (h12 : PrunedFrom m1 m2) (h23 : PrunedFrom m2 m3) :
    PrunedFrom m1 m3 := by
  obtain ⟨f, rfl, f1, f2, f3⟩ := h12
  obtain ⟨g, rfl, g1, g2, g3⟩ := h23
  refine ⟨g ∘ f, by simp, fun c => ?_, fun c h => ?_, fun cfg c h => g3 cfg _ (f3 cfg c h)⟩
  · exact ⟨(g1 _).1.trans (f1 c).1, (g1 _).2.1.trans (f1 c).2.1, (g1 _).2.2.trans (f1 c).2.2⟩
  · rw [Function.comp_apply, f2 c h, g2 c h]

theorem PrunedFrom.length {m m' : Memory} (h : PrunedFrom m m') : m'.length = m.length := by
  obtain ⟨f, rfl, _⟩ := h; simp

theorem PrunedFrom.chan {m m' : Memory} (h : PrunedFrom m m') (i : Nat) :
    (Memory.chan m' i).enabled = (Memory.chan m i).enabled ∧ (Memory.chan m' i).maxSize = (Memory.chan m i).maxSize ∧
      (Memory.chan m' i).queue <:+ (Memory.chan m i).queue ∧
      ((Memory.chan m i).enabled = false → Memory.chan m' i = Memory.chan m i) := by
  obtain ⟨f, rfl, f1, f2, _⟩ := h
  unfold Memory.chan
  rw [List.getElem?_map]
  rcases hm : m[i]? with _ | c
  · simp
  · simpa using ⟨(f1 c).1, (f1 c).2.1, (f1 c).2.2, f2 c⟩

theorem PrunedFrom.wf {cfg : Config} {m m' : Memory} (h : PrunedFrom m m') (hm : Memory.wf cfg m = true) :
    Memory.wf cfg m' = true := by
  obtain ⟨f, rfl, _, _, f3⟩ := h
  exact Memory.map_wf f (f3 cfg) hm

theorem alignPass_pruned (threshold : Word) (m : Memory) : PrunedFrom m (alignPass threshold m).1 :=
  alignPass_pointwise threshold m

theorem cpiPass_pruned (threshold span : Word) (m : Memory) : PrunedFrom m (cpiPass threshold span m) :=
  ⟨cpiChannel threshold span, rfl, cpiChannel_spec threshold span, cpiChannel_of_disabled threshold span,
    fun _ => cpiChannel_wf threshold span⟩

theorem cpiAttempt_pruned (threshold span : Word) (m : Memory) : PrunedFrom m (cpiAttempt threshold span m).1 := by
  unfold cpiAttempt
  have h := alignPass_pruned threshold m
  rcases hp : alignPass threshold m with ⟨m1, b⟩
  rw [hp] at h
  cases b
  · exact h
  · exact h.trans (cpiPass_pruned threshold span m1)

theorem cpiNotify_pruned (threshold span : Word) (m : Memory) : PrunedFrom m (cpiNotify threshold span m).1 := by
  unfold cpiNotify
  have h1 := cpiAttempt_pruned threshold span m
  rcases ha : cpiAttempt threshold span m with ⟨m1, a⟩
  rw [ha] at h1
  cases a
  · exact h1
  · exact h1
  · have h2 := cpiAttempt_pruned threshold span m1
    rcases hb : cpiAttempt threshold span m1 with ⟨m2, b⟩
    rw [hb] at h2
    cases b <;> simpa [hb] using h1.trans h2

/-- Everything `Notify` does to the storage (R67): it only prunes enabled channels. -/
theorem notifyMemory_pruned (cfg : Config) (span : Word) (m : Memory) :
    PrunedFrom m (notifyMemory cfg span m).1 := by
  unfold notifyMemory
  split
  · exact alignPass_pruned _ m
  · exact cpiNotify_pruned _ span m

/-- Everything `Notify` does (R67, R68): prunes, and may enter a dispatch of the build's kind. -/
theorem notify_cases (cfg : Config) (a : Arch) :
    PrunedFrom a.chans (notify cfg a).chans ∧ (notify cfg a).cpiSpan = a.cpiSpan ∧
    (((notifyMemory cfg a.cpiSpan a.chans).2 = false ∧ (notify cfg a).phase = a.phase ∧ (notify cfg a).dkind = a.dkind) ∨
     ((notifyMemory cfg a.cpiSpan a.chans).2 = true ∧ (notify cfg a).phase = .dispatch ∧
      (notify cfg a).dkind = Mode.kind cfg.mode)) := by
  unfold notify
  have h := notifyMemory_pruned cfg a.cpiSpan a.chans
  cases hr : (notifyMemory cfg a.cpiSpan a.chans).2
  · exact ⟨by simpa [hr] using h, by simp [hr], .inl ⟨rfl, by simp [hr], by simp [hr]⟩⟩
  · exact ⟨by simpa [hr] using h, by simp [hr], .inr ⟨rfl, by simp [hr], by simp [hr]⟩⟩

end Sys2Proof.Machine
end

