-- ==== Sys2Proof/Laws/Decode.lean ====
section
/-! SUPPORT. The fields of the command word that the encoder builds (30_encoding.md R38, R48). -/

namespace Sys2Proof

@[simp] theorem ofField_field (op : Opcode) : Opcode.ofField op.field = some op := by
  cases op <;> rfl

@[simp] theorem bitWord_getLsbD (b : Bool) (i : Nat) : (bitWord b).getLsbD i = (decide (i = 0) && b) := by
  cases b
  · simp [bitWord]
  · simp [bitWord, BitVec.getLsbD_one]

theorem commandWord_getLsbD (op : Opcode) (g v : Bool) (ch : ChanIndex) (i : Nat) (hi : i < 32) :
    (commandWord op g v ch).getLsbD i =
      if i < 16 then ch.getLsbD i
      else if i = 26 then v
      else if i = 27 then g
      else if 28 ≤ i then op.field.getLsbD (i - 28)
      else false := by
  unfold commandWord
  simp only [BitVec.getLsbD_or, BitVec.getLsbD_shiftLeft, BitVec.getLsbD_setWidth, bitWord_getLsbD, hi, decide_true,
    Bool.true_and]
  by_cases h16 : i < 16
  · simp [h16, show i < 28 by omega, show i < 27 by omega, show i < 26 by omega]
  · have hch : ch.getLsbD i = false := BitVec.getLsbD_of_ge _ _ (by omega)
    rw [if_neg h16, hch]
    by_cases h26 : i = 26
    · subst h26; simp
    · by_cases h27 : i = 27
      · subst h27; simp
      · by_cases h28 : 28 ≤ i
        · simp [h26, h27, h28, show ¬ i < 28 by omega, show ¬ i - 27 = 0 by omega, show ¬ i - 26 = 0 by omega,
            show i - 28 < 32 by omega]
        · simp [h26, h27, h28, show i < 28 by omega, show i < 27 by omega, show i - 26 = 0 ↔ i ≤ 26 by omega,
            show i < 26 by omega]

@[simp] theorem opField_commandWord (op : Opcode) (g v : Bool) (ch : ChanIndex) :
    opField (commandWord op g v ch) = op.field := by
  apply BitVec.eq_of_getLsbD_eq
  intro i hi
  rw [opField, BitVec.getLsbD_extractLsb', commandWord_getLsbD _ _ _ _ _ (by omega)]
  simp [hi, show ¬ 28 + i < 16 by omega, show ¬ 28 + i = 26 by omega, show ¬ 28 + i = 27 by omega]

@[simp] theorem gField_commandWord (op : Opcode) (g v : Bool) (ch : ChanIndex) :
    gField (commandWord op g v ch) = g := by
  rw [gField, commandWord_getLsbD _ _ _ _ _ (by omega)]; simp

@[simp] theorem vField_commandWord (op : Opcode) (g v : Bool) (ch : ChanIndex) :
    vField (commandWord op g v ch) = v := by
  rw [vField, commandWord_getLsbD _ _ _ _ _ (by omega)]; simp

@[simp] theorem rsvField_commandWord (op : Opcode) (g v : Bool) (ch : ChanIndex) :
    rsvField (commandWord op g v ch) = 0 := by
  apply BitVec.eq_of_getLsbD_eq
  intro i hi
  rw [rsvField, BitVec.getLsbD_extractLsb', commandWord_getLsbD _ _ _ _ _ (by omega)]
  simp [show ¬ 16 + i = 26 by omega, show ¬ 16 + i = 27 by omega, show ¬ 28 ≤ 16 + i by omega]

@[simp] theorem chField_commandWord (op : Opcode) (g v : Bool) (ch : ChanIndex) :
    chField (commandWord op g v ch) = ch := by
  apply BitVec.eq_of_getLsbD_eq
  intro i hi
  rw [chField, BitVec.getLsbD_extractLsb', commandWord_getLsbD _ _ _ _ _ (by omega)]
  simp [hi]

end Sys2Proof
end

