-- ==== Sys2Proof/Laws/Ops.lean ====
section
/-! SUPPORT. What the shared operations on the state can do, said once: the checks and the error answer
(60_exceptions.md R88, R89), the dispatch entry, relaxed reads (20_memory.md R34), the choice of the next event (R32),
and every instruction. -/

namespace Sys2Proof.Machine

/-! ### The checks -/

@[simp] theorem firstError_nil : firstError [] = none := rfl
@[simp] theorem firstError_none (rest : List (Option Status)) : firstError (none :: rest) = firstError rest := rfl
@[simp] theorem firstError_some (e : Status) (rest : List (Option Status)) : firstError (some e :: rest) = some e := rfl

theorem firstError_eq_none_iff (checks : List (Option Status)) :
    firstError checks = none ↔ ∀ k ∈ checks, k = none := by
  induction checks with
  | nil => simp
  | cons k rest ih => cases k <;> simp [ih]

theorem checkPort_of_permitted {s : State} {op : Opcode} (h : permitted op s.cur s.arch.phase = true) :
    checkPort s op = none := if_pos h

theorem checkPort_of_not_permitted {s : State} {op : Opcode} (h : permitted op s.cur s.arch.phase = false) :
    checkPort s op = some .errPort := if_neg (by simp [h])

theorem checkPort_eq_none {s : State} {op : Opcode} : checkPort s op = none ↔ permitted op s.cur s.arch.phase = true := by
  simp [checkPort]

theorem checkChannel_eq_none {s : State} {ch : ChanIndex} :
    checkChannel s ch = none ↔ ch.toNat < s.cfg.nChannels := by
  simp [checkChannel, channelLegal]

theorem checkChannel_of_legal {s : State} {ch : ChanIndex} (h : ch.toNat < s.cfg.nChannels) :
    checkChannel s ch = none := checkChannel_eq_none.mpr h

theorem checkMode_eq_none {s : State} : checkMode s = none ↔ s.cfg.mode = .cpi := by
  simp [checkMode]

theorem checkSize_eq_none {s : State} {n : Word} : checkSize s n = none ↔ sizeLegal s.cfg n = true := by
  simp [checkSize]

theorem checkSpan_eq_none {n : Word} : checkSpan n = none ↔ n ≠ 0 := by
  simp [checkSpan, spanLegal]

/-- Everything a guarded command can do: the first error and nothing else, or its effect. -/
theorem State.guarded_cases (s : State) (checks : List (Option Status)) (effect : State) :
    (∃ e, firstError checks = some e ∧ s.guarded checks effect = .next (s.raise e)) ∨
    (firstError checks = none ∧ s.guarded checks effect = .next effect) := by
  unfold State.guarded
  cases h : firstError checks with
  | none => exact .inr ⟨rfl, rfl⟩
  | some e => exact .inl ⟨e, rfl, rfl⟩

theorem State.guarded_next {s t : State} {checks : List (Option Status)} {effect : State}
    (h : s.guarded checks effect = .next t) :
    (∃ e, firstError checks = some e ∧ t = s.raise e) ∨ (firstError checks = none ∧ t = effect) := by
  rcases s.guarded_cases checks effect with ⟨e, he, hr⟩ | ⟨he, hr⟩
  · rw [hr] at h; injection h with h; exact .inl ⟨e, he, h.symm⟩
  · rw [hr] at h; injection h with h; exact .inr ⟨he, h.symm⟩

theorem State.guarded_pass {s : State} {checks : List (Option Status)} {effect : State}
    (h : firstError checks = none) : s.guarded checks effect = .next effect := by
  simp [State.guarded, h]

theorem State.guarded_fail {s : State} {checks : List (Option Status)} {effect : State} {e : Status}
    (h : firstError checks = some e) : s.guarded checks effect = .next (s.raise e) := by
  simp [State.guarded, h]

theorem State.guarded_answers (s : State) (checks : List (Option Status)) (effect : State) :
    ∃ t, s.guarded checks effect = .next t := by
  rcases s.guarded_cases checks effect with ⟨e, _, h⟩ | ⟨_, h⟩ <;> exact ⟨_, h⟩

/-! ### The message and the dispatch entry -/

/-- Everything ADD_DATA does on an enabled channel (R56, R68): with r the outcome of the notification on the storage with
the message in it, either it dispatches and answers nothing, or it answers OK. -/
theorem State.acceptMessage_cases (s : State) (ch : ChanIndex) (e : Entry) (hidle : s.arch.phase = .idle) :
    (∃ a, a = notify s.cfg (s.arch.withChans (Memory.update s.arch.chans ch.toNat (fun c => c.accept e))) ∧
      ((a.phase = .dispatch ∧ a.dkind = Mode.kind s.cfg.mode ∧
          s.acceptMessage ch e = s.enterDispatch (.addData ch e.seq e.code e.payload) a) ∨
       (a.phase = .idle ∧ a.dkind = s.arch.dkind ∧
          s.acceptMessage ch e = (s.commit a).respond s.cur okResponse))) := by
  refine ⟨_, rfl, ?_⟩
  obtain ⟨_, _, hcases⟩ :=
    notify_cases s.cfg (s.arch.withChans (Memory.update s.arch.chans ch.toNat (fun c => c.accept e)))
  rcases hcases with ⟨_, hp, hk⟩ | ⟨_, hp, hk⟩
  · refine .inr ⟨hp.trans hidle, hk, ?_⟩
    unfold State.acceptMessage
    exact if_neg (by rw [hp]; simp [hidle])
  · refine .inl ⟨hp, hk, ?_⟩
    unfold State.acceptMessage
    exact if_pos hp

/-! ### Relaxed reads -/

/-- What a status read shows is one of the states that R34 allows. -/
theorem State.statusView_mem (s : State) : s.statusView ∈ s.candidates := by
  unfold State.statusView
  split
  · have hpos : 0 < s.candidates.length := by simp [State.candidates]
    have hlt := Nat.mod_lt (Config.staleChoice s.draws) hpos
    rw [List.getElem?_eq_getElem hlt]
    exact List.getElem_mem hlt
  · simp [State.candidates]

theorem State.statusView_of_not_relaxed {s : State} (h : s.relaxed = false) : s.statusView = s.arch := by
  simp [State.statusView, h]

theorem State.relaxed_eq_false {s : State} (h : s.cur ≠ .status ∨ s.inProgress = none) : s.relaxed = false := by
  rcases h with h | h <;> simp [State.relaxed, h]

/-! ### The next event -/

/-- Everything the choice of the next event does (R32): it takes one of the offered events that may start and keeps the
others in their order; those before it are all waiting. -/
theorem pickEvent_spec (busy held : Bool) (l : List Event) (k : Picked) (h : pickEvent busy held l = some k) :
    l = k.waiting ++ k.event :: k.later ∧
    mayStart busy (held || k.waiting.any Event.onPortS) k.event = true ∧
    (∀ pre e post, k.waiting = pre ++ e :: post → mayStart busy (held || pre.any Event.onPortS) e = false) := by
  induction l generalizing held k with
  | nil => simp [pickEvent] at h
  | cons e rest ih =>
    unfold pickEvent at h
    split at h
    · next hm =>
      cases h
      exact ⟨rfl, by simpa using hm, by simp⟩
    · next hm =>
      split at h
      · next k' hk' =>
        cases h
        obtain ⟨h1, h2, h3⟩ := ih _ k' hk'
        refine ⟨by simpa using h1, by simpa [Bool.or_assoc] using h2, ?_⟩
        intro pre e' post hpre
        rcases pre with _ | ⟨x, pre⟩
        · simp only [List.nil_append, List.cons.injEq] at hpre
          rw [← hpre.1]
          simpa using hm
        · simp only [List.cons_append, List.cons.injEq] at hpre
          have := h3 pre e' post hpre.2
          rw [← hpre.1]
          simpa [Bool.or_assoc] using this
      · cases h

theorem pickEvent_head (busy held : Bool) (e : Event) (rest : List Event) (h : mayStart busy held e = true) :
    pickEvent busy held (e :: rest) = some ⟨[], e, rest⟩ := by
  simp [pickEvent, h]

/-! ### Every instruction -/

/-- Every instruction is answered or withheld: no meaning faults or refuses (R37). -/
theorem exec_answers (i : Instr) (s : State) : ∃ t, exec i s = .next t := by
  cases i <;> exact State.guarded_answers _ _ _

end Sys2Proof.Machine
end

