-- ==== Sys2Proof/Laws/PerInstr.lean ====
section
/-! SUPPORT. The family of statements made for every instruction, one lemma per constructor: the form of its encoding. -/

namespace Sys2Proof.Laws.CommandForm

/-- The encoding of an instruction is a command word with its opcode in OP and zeros in RSV (30_encoding.md R38, R42),
followed by exactly the operand words and the payload that its opcode takes (R39). -/
def Statement (i : Instr) : Prop :=
  opField (encode i).cw = i.opcode.field ∧ rsvField (encode i).cw = 0 ∧
  (encode i).operands.length = i.opcode.operandWords ∧ (encode i).payload.isSome = i.opcode.takesPayload

theorem addData (ch : ChanIndex) (seq code : Word) (payload : Payload) : Statement (.addData ch seq code payload) :=
  ⟨opField_commandWord .addData false false ch, rsvField_commandWord .addData false false ch, rfl, rfl⟩

theorem setEnabled (ch : ChanIndex) (v : Bool) : Statement (.setEnabled ch v) :=
  ⟨opField_commandWord .setEnabled false v ch, rsvField_commandWord .setEnabled false v ch, rfl, rfl⟩

theorem setEnabledAll (v : Bool) : Statement (.setEnabledAll v) :=
  ⟨opField_commandWord .setEnabled true v 0, rsvField_commandWord .setEnabled true v 0, rfl, rfl⟩

theorem setMaxSize (ch : ChanIndex) (n : Word) : Statement (.setMaxSize ch n) :=
  ⟨opField_commandWord .setMaxSize false false ch, rsvField_commandWord .setMaxSize false false ch, rfl, rfl⟩

theorem setMaxSizeAll (n : Word) : Statement (.setMaxSizeAll n) :=
  ⟨opField_commandWord .setMaxSize true false 0, rsvField_commandWord .setMaxSize true false 0, rfl, rfl⟩

theorem setCpiSpan (n : Word) : Statement (.setCpiSpan n) :=
  ⟨opField_commandWord .setCpiSpan false false 0, rsvField_commandWord .setCpiSpan false false 0, rfl, rfl⟩

theorem popFront (ch : ChanIndex) : Statement (.popFront ch) :=
  ⟨opField_commandWord .popFront false false ch, rsvField_commandWord .popFront false false ch, rfl, rfl⟩

theorem peek (ch : ChanIndex) (pos : Word) : Statement (.peek ch pos) :=
  ⟨opField_commandWord .peek false false ch, rsvField_commandWord .peek false false ch, rfl, rfl⟩

theorem prune (ch : ChanIndex) (target : Word) : Statement (.prune ch target) :=
  ⟨opField_commandWord .prune false false ch, rsvField_commandWord .prune false false ch, rfl, rfl⟩

theorem readChStatus (ch : ChanIndex) : Statement (.readChStatus ch) :=
  ⟨opField_commandWord .readChStatus false false ch, rsvField_commandWord .readChStatus false false ch, rfl, rfl⟩

theorem readGlobal : Statement .readGlobal :=
  ⟨opField_commandWord .readGlobal false false 0, rsvField_commandWord .readGlobal false false 0, rfl, rfl⟩

theorem done (v : Bool) : Statement (.done v) :=
  ⟨opField_commandWord .done false v 0, rsvField_commandWord .done false v 0, rfl, rfl⟩

end Sys2Proof.Laws.CommandForm
end

