-- ==== Sys2Proof/Tests/Slice0.lean ====
section
/-! SUPPORT. Tests. Words are written out from 30_encoding.md R38, R39 and R42; expected results come from the vectors of
95_test_vectors.md (named in each comment) or are worked by hand from the rule named. Then, for every statement with
hypotheses, a theorem that a concrete input meets them. -/

namespace Sys2Proof.Tests

open Sys2Proof Sys2Proof.Machine

/-! ### Helpers -/

/-- A build of 95_test_vectors.md section 0: LIMIT = 16, MAXSZ = 8, T = 65536, channels enabled. -/
def build (n : Nat) (mode : Mode) (span : Word) : Config where
  nChannels := n
  maxSizeLimit := 16
  defaultMaxSize := 8
  defaultEnabled := true
  mode := mode
  defaultCpiSpan := span

/-- A message with the waveform code `code`. -/
def msg (seq code : Word) : Entry := ⟨seq, code, [seq]⟩

/-- A channel with queue q. -/
def channel (q : List Entry) (maxSize : Word) (enabled : Bool) : Channel := ⟨q, frontSeq q, maxSize, enabled⟩

/-- The block idle, with these channels, executing a command of port p. -/
def idle (c : Config) (p : Port) (m : Memory) : State :=
  { State.resetWith c with arch := { Arch.initial c with chans := m }, cur := p }

/-- The same in a dispatch that an ADD_DATA entered. -/
def dispatching (c : Config) (p : Port) (m : Memory) : State :=
  { idle c p m with
    arch := ⟨m, initialSpan c, .dispatch, Mode.kind c.mode⟩
    inProgress := some (.addData 0 1 0xA [])
    boundaries := [(idle c p m).arch] }

/-- With these events offered. -/
def offering (s : State) (l : List Event) : State := { s with inbox := l }

/-- The next state of an outcome. -/
def after : Host.Outcome State Fault Refusal → Option State
  | .next s => some s
  | .fault _ => none
  | .refused _ => none

/-- Two enabled channels with the given queues, in ALIGN mode. -/
def alignIdle (p : Port) (q0 q1 : List Entry) : State :=
  idle (build 2 .align 0) p [channel q0 8 true, channel q1 8 true]

/-- Two enabled channels with the given queues, in a dispatch, in ALIGN mode. -/
def alignBusy (p : Port) (q0 q1 : List Entry) : State :=
  dispatching (build 2 .align 0) p [channel q0 8 true, channel q1 8 true]

/-- One enabled channel in CPI mode, CPI_SPAN = 4. -/
def cpiIdle (p : Port) (q : List Entry) : State := idle (build 1 .cpi 4) p [channel q 8 true]

/-- What a test reads of a next state: queue 0, NSC[0] and the response words and data given. -/
def seen (o : Host.Outcome State Fault Refusal) : Option (List Word × Word × List (Word × List Word)) :=
  (after o).map (fun t =>
    ((t.queue 0).map Entry.seq, (t.chan 0).nsc, t.outbox.map (fun r => (r.response.rw, r.response.data))))

/-! ### WellFormed: one ill-formed term for each check -/

theorem test_channel_out_of_range : (Instr.popFront 2).wellFormed (build 2 .align 0) = false := by decide
theorem test_channel_last : (Instr.popFront 1).wellFormed (build 2 .align 0) = true := by decide
theorem test_size_zero : (Instr.setMaxSize 0 0).wellFormed (build 2 .align 0) = false := by decide
theorem test_size_above_limit : (Instr.setMaxSizeAll 17).wellFormed (build 2 .align 0) = false := by decide
theorem test_size_at_limit : (Instr.setMaxSizeAll 16).wellFormed (build 2 .align 0) = true := by decide
theorem test_span_zero : (Instr.setCpiSpan 0).wellFormed (build 1 .cpi 4) = false := by decide
theorem test_span_in_align_mode : (Instr.setCpiSpan 3).wellFormed (build 2 .align 0) = false := by decide

/-! ### Decoding words written out -/

theorem test_decode_addData :
    decode ⟨0x10000002, [9, 0xA], some [7]⟩ = .ok (.addData 2 9 0xA [7]) := by decide
theorem test_decode_setEnabled : decode ⟨0x24000002, [], none⟩ = .ok (.setEnabled 2 true) := by decide
theorem test_decode_setEnabledAll : decode ⟨0x28000000, [], none⟩ = .ok (.setEnabledAll false) := by decide
theorem test_decode_setMaxSize : decode ⟨0x30000001, [3], none⟩ = .ok (.setMaxSize 1 3) := by decide
theorem test_decode_setMaxSizeAll : decode ⟨0x38000000, [3], none⟩ = .ok (.setMaxSizeAll 3) := by decide
theorem test_decode_setCpiSpan : decode ⟨0x40000000, [4], none⟩ = .ok (.setCpiSpan 4) := by decide
theorem test_decode_popFront : decode ⟨0x5000FFFF, [], none⟩ = .ok (.popFront 0xFFFF) := by decide
theorem test_decode_peek : decode ⟨0x60000002, [0xFFFFFFFF], none⟩ = .ok (.peek 2 0xFFFFFFFF) := by decide
theorem test_decode_prune : decode ⟨0x70000000, [5], none⟩ = .ok (.prune 0 5) := by decide
theorem test_decode_readChStatus : decode ⟨0x80000001, [], none⟩ = .ok (.readChStatus 1) := by decide
theorem test_decode_readGlobal : decode ⟨0x90000000, [], none⟩ = .ok .readGlobal := by decide
theorem test_decode_done : decode ⟨0xA4000000, [], none⟩ = .ok (.done true) := by decide
theorem test_reject_reserved : decode ⟨0xB0000000, [], none⟩ = .error .reservedOpcode := by decide
/-- V-ERR-16. -/
theorem test_reject_format : decode ⟨0x2C000001, [], none⟩ = .error (.format .setEnabled) := by decide
theorem test_reject_misframed : decode ⟨0x60000002, [], none⟩ = .error .misframed := by decide
/-- The second word of a row of the table stands above the first. -/
theorem test_table_word : decodeTableWord 64 0x0000000560000002 = some (.peek 2 5) := by decide

/-! ### One step of each instruction -/

/-- S1: with MAXSZ = 2, [1, 2] and a 3. -/
theorem test_addData_trims :
    seen (exec (.addData 0 3 0xA []) (idle (build 2 .align 0) .producer
      [channel [msg 1 0xA, msg 2 0xA] 2 true, channel [] 8 true])) = some ([2, 3], 2, [(0, [])]) := by decide
/-- S6: the fifth message of a different code dispatches; the response is withheld. -/
theorem test_addData_dispatches_cpi :
    (after (exec (.addData 0 5 0xB []) (cpiIdle .producer [msg 1 0xA, msg 2 0xA, msg 3 0xA, msg 4 0xA]))).map
      (fun t => (t.arch.phase, t.arch.dkind, t.outbox)) = some (.dispatch, .cpi, []) := by decide
/-- S7: the notification drops the short run and does not dispatch. -/
theorem test_short_run_is_dropped :
    cpiNotify 65536 4 [channel [msg 1 0xA, msg 2 0xA, msg 3 0xB, msg 4 0xB, msg 5 0xB] 8 true] =
      ([channel [msg 3 0xB, msg 4 0xB, msg 5 0xB] 8 true], false) := by decide
/-- V-CPI-3: the second pass dispatches the complete run behind the short one. -/
theorem test_retry_dispatches :
    cpiNotify 65536 4 [channel [msg 1 0xA, msg 2 0xA, msg 3 0xB, msg 4 0xB, msg 5 0xB, msg 6 0xB, msg 7 0xC, msg 8 0xC] 8 true] =
      ([channel [msg 3 0xB, msg 4 0xB, msg 5 0xB, msg 6 0xB, msg 7 0xC, msg 8 0xC] 8 true], true) := by decide
/-- V-CPI-8: rejected in both passes with nothing pruned, and no third pass. -/
theorem test_no_third_pass :
    cpiNotify 65536 2 [channel [msg 65535 0xA, msg 0 0xB, msg 1 0xB] 3 true] =
      ([channel [msg 65535 0xA, msg 0 0xB, msg 1 0xB] 3 true], false) := by decide
/-- V-AL-6 (a): the fold is in ascending order, so the order of the channels matters. -/
theorem test_alignPass_order :
    alignPass 32768 [channel [msg 0 0xA] 8 true, channel [msg 40000 0xA] 8 true] =
      ([channel [] 8 true, channel [msg 40000 0xA] 8 true], false) ∧
    alignPass 32768 [channel [msg 40000 0xA] 8 true, channel [msg 0 0xA] 8 true] =
      ([channel [] 8 true, channel [msg 0 0xA] 8 true], false) := by decide
/-- V-AL-6 (b). -/
theorem test_target_order :
    computeTarget 32768 [channel [msg 0 0xA] 8 true, channel [msg 20000 0xA] 8 true, channel [msg 40000 0xA] 8 true] =
      some 40000 ∧
    computeTarget 32768 [channel [msg 20000 0xA] 8 true, channel [msg 40000 0xA] 8 true, channel [msg 0 0xA] 8 true] =
      some 0 ∧
    computeTarget 32768 [channel [msg 40000 0xA] 8 true, channel [msg 0 0xA] 8 true, channel [msg 20000 0xA] 8 true] =
      some 20000 := by decide
/-- S5, step 2. -/
theorem test_setEnabled_clears :
    seen (exec (.setEnabled 0 false) (alignIdle .status [msg 5 0xA] [])) = some ([], 0, [(0, [])]) := by decide
theorem test_setEnabledAll_keeps :
    seen (exec (.setEnabledAll true) (alignIdle .status [msg 5 0xA] [])) = some ([5], 5, [(0, [])]) := by decide
/-- R60: the oldest leave at once. -/
theorem test_setMaxSize_trims :
    seen (exec (.setMaxSize 0 2) (alignIdle .status [msg 1 0xA, msg 2 0xA, msg 3 0xA] [])) =
      some ([2, 3], 2, [(0, [])]) := by decide
theorem test_setMaxSizeAll_error :
    seen (exec (.setMaxSizeAll 17) (alignIdle .status [msg 1 0xA] [])) = some ([1], 1, [(2, [])]) := by decide
theorem test_setCpiSpan :
    (after (exec (.setCpiSpan 3) (cpiIdle .status []))).map (fun t => t.arch.cpiSpan) = some 3 := by decide
/-- V-BUF-6. -/
theorem test_popFront :
    seen (exec (.popFront 0) (alignIdle .producer [msg 6 0xA] [])) = some ([], 0, [(0x80, [6, 0xA])]) := by decide
/-- V-BUF-7. -/
theorem test_peek :
    seen (exec (.peek 0 1) (alignIdle .producer [msg 1 0xA, msg 2 0xB] [])) =
      some ([1, 2], 1, [(0x80, [2, 0xB])]) := by decide
theorem test_peek_past_the_back :
    seen (exec (.peek 0 2) (alignIdle .producer [msg 1 0xA, msg 2 0xB] [])) =
      some ([1, 2], 1, [(0, [0, 0])]) := by decide
/-- S2. -/
theorem test_prune_bit_zero :
    seen (exec (.prune 0 5) (alignIdle .producer [msg 3 0xA, msg 4 0xA, msg 6 0xA] [])) =
      some ([6], 6, [(0, [])]) := by decide
theorem test_prune_bit_one :
    seen (exec (.prune 0 6) (alignIdle .producer [msg 6 0xA] [])) = some ([6], 6, [(0x80, [])]) := by decide
/-- V-RST-1. -/
theorem test_readChStatus :
    seen (exec (.readChStatus 1) { State.reset with cur := .status }) =
      some ([], 0, [(0, [0, 8, 0, 0x00010002])]) := by decide
/-- V-RST-1. -/
theorem test_readGlobal :
    seen (exec .readGlobal { State.reset with cur := .status }) =
      some ([], 0, [(0, [2, 0x1, 4, 16, 0x00010000])]) := by decide
/-- PR5, step 12. -/
theorem test_done :
    seen (exec (.done true) (alignBusy .consumer [msg 4 0xA] [])) =
      some ([4], 4, [(0, []), (0x50, [])]) := by decide
/-- V-ERR-14. -/
theorem test_done_outside_a_dispatch :
    seen (exec (.done true) (alignIdle .consumer [] [])) = some ([], 0, [(4, [])]) := by decide
/-- The step runs a placed command first (log 15). -/
theorem test_placed_command_runs :
    (after (step (State.reset.withFetchWord 32 0x90000000))).map (fun t => t.outbox.length) = some 1 := by decide
/-- V-ERR-22: a SET_* of port S waits while port P's command is in progress. -/
theorem test_status_write_is_held :
    (after (step (offering (alignBusy .producer [msg 1 0xA] [msg 1 0xA])
      [.command .status ⟨0x20000001, [], none⟩]))).map (fun t => (t.outbox, t.inbox.length)) = some ([], 1) := by decide

/-! ### The hypotheses of each statement can be met -/

/-- A word with G = 1 and a channel. -/
def badFormat : Transaction := ⟨0x2C000001, [], none⟩

theorem witness_EncodeOfDecodeIsIdentity :
    decode ⟨0x60000002, [5], none⟩ = .ok (.peek 2 5) := by decide

theorem witness_ReservedOpcodeIsAnswered :
    ((0x0FFFFFFF : Word).toNat / 2 ^ 28 = 0) ∧ (11 ≤ (0xB0000000 : Word).toNat / 2 ^ 28) ∧
    (11 ≤ (0xFFFFFFFF : Word).toNat / 2 ^ 28) := by decide

theorem witness_FormatIsCheckedAsStated :
    badFormat.framed = true ∧ Opcode.ofField (opField badFormat.cw) = some .setEnabled ∧
    FormatError .setEnabled badFormat.cw ∧ ¬ FormatError .setEnabled 0x24000001 := by
  unfold FormatError; decide

theorem witness_FormatErrorIsAnswered :
    badFormat.framed = true ∧ Opcode.ofField (opField badFormat.cw) = some .setEnabled ∧
    FormatError .setEnabled badFormat.cw ∧
    MayIssue .setEnabled (alignIdle .status [] []).cur (alignIdle .status [] []).arch.phase ∧
    ¬ MayIssue .setEnabled (alignIdle .consumer [] []).cur (alignIdle .consumer [] []).arch.phase := by
  unfold FormatError MayIssue; decide

theorem witness_PortErrorComesFirst :
    ¬ MayIssue (Instr.done true).opcode (alignIdle .consumer [] []).cur (alignIdle .consumer [] []).arch.phase := by
  unfold MayIssue; decide

/-- One input for each of the three clauses, at the first illegal value. -/
theorem witness_OperandErrorsInOrder :
    (MayIssue (Instr.setCpiSpan 0).opcode (alignIdle .status [] []).cur (alignIdle .status [] []).arch.phase ∧
      (Instr.setCpiSpan 0).opcode = .setCpiSpan ∧ (alignIdle .status [] []).cfg.mode = .align) ∧
    (MayIssue (Instr.popFront 2).opcode (alignIdle .producer [] []).cur (alignIdle .producer [] []).arch.phase ∧
      channelOf (.popFront 2) = some 2 ∧ (alignIdle .producer [] []).cfg.nChannels ≤ (2 : ChanIndex).toNat) ∧
    (MayIssue (Instr.setMaxSize 1 17).opcode (alignIdle .status [] []).cur (alignIdle .status [] []).arch.phase ∧
      (Instr.setMaxSize 1 17).opcode ≠ .setCpiSpan ∧ channelOf (.setMaxSize 1 17) = some 1 ∧
      (1 : ChanIndex).toNat < (alignIdle .status [] []).cfg.nChannels ∧
      (Instr.setMaxSize 1 17).wellFormed (alignIdle .status [] []).cfg = false) := by
  unfold MayIssue; decide

/-- V-ERR-18 as the first offered command. -/
def erring : State := offering (alignIdle .status [] []) [.command .producer ⟨0x80000002, [], none⟩]

theorem witness_ErrorsChangeNoState :
    erring.nextEvent = some ⟨[], .command .producer ⟨0x80000002, [], none⟩, []⟩ ∧
    (after (step erring)).map (fun t => t.outbox.drop erring.outbox.length) =
      some [⟨.producer, ⟨1, [], none⟩⟩] ∧ (1 : Word).toNat % 16 ≠ 0 := by decide

theorem witness_ConsumerValueIsOnlyReported :
    (alignBusy .consumer [msg 1 0xA] [msg 1 0xA]).cur = .consumer ∧
    (alignBusy .consumer [msg 1 0xA] [msg 1 0xA]).arch.phase = .dispatch := by decide

/-- Clauses 3 and 4 at their boundary values. -/
theorem witness_OlderComparesWithWraparound :
    ((0 : Word).toNat < (65537 : Word).toNat ∧ older 65536 65537 0 = true) ∧
    ((65535 : Word).toNat ≤ 65535 ∧ (0 : Word).toNat ≤ 65535) := by decide

/-- At the bound, and one above it. -/
theorem witness_TrimKeepsTheNewest :
    (channel [msg 1 0xA, msg 2 0xA] 2 true).queue.length ≤ (channel [msg 1 0xA, msg 2 0xA] 2 true).maxSize.toNat ∧
    (channel [msg 1 0xA, msg 2 0xA] 1 true).maxSize.toNat < (channel [msg 1 0xA, msg 2 0xA] 1 true).queue.length := by
  decide

/-- Something leaves; nothing leaves; an empty queue; the bit 1. -/
theorem witness_PruneStopsAtFirstNotOlder :
    ((channel [msg 3 0xA, msg 6 0xA] 8 true).prune 65536 5).queue = [msg 6 0xA] ∧
    ((channel [msg 6 0xA] 8 true).prune 65536 5).queue = (channel [msg 6 0xA] 8 true).queue ∧
    (channel [] 8 true).queue = [] ∧ ((channel [msg 3 0xA, msg 6 0xA] 8 true).prune 65536 6).frontIs 6 = true := by
  decide

theorem witness_AcceptKeepsTheNewMessage :
    (channel [msg 7 0xA] 1 true).maxSize ≠ 0 ∧ (channel [msg 7 0xA] 1 true).maxSize = 1 ∧
    (channel [msg 7 0xA] 1 true).nsc = frontSeq (channel [msg 7 0xA] 1 true).queue := by decide

/-- The last channel of the build, disabled. -/
def lastDisabled : State := idle (build 2 .align 0) .producer [channel [msg 1 0xA] 8 true, channel [] 8 false]

theorem witness_AddDataToDisabledChannelIsNoOp :
    lastDisabled.cur = .producer ∧ (1 : ChanIndex).toNat < lastDisabled.cfg.nChannels ∧
    (lastDisabled.chan 1).enabled = false := by decide

/-- For the outcome without a dispatch (channel 1 empty) and with one. -/
theorem witness_AddDataNotifiesAndMayDispatch :
    ((alignIdle .producer [] []).cur = .producer ∧ (0 : ChanIndex).toNat < (alignIdle .producer [] []).cfg.nChannels ∧
      ((alignIdle .producer [] []).chan 0).enabled = true ∧ (alignIdle .producer [] []).arch.phase = .idle ∧
      (notifyMemory (alignIdle .producer [] []).cfg 0
        (Memory.update (alignIdle .producer [] []).arch.chans 0 (fun c => c.accept ⟨3, 0xA, []⟩))).2 = false) ∧
    ((alignIdle .producer [msg 3 0xA] []).cur = .producer ∧
      (1 : ChanIndex).toNat < (alignIdle .producer [msg 3 0xA] []).cfg.nChannels ∧
      ((alignIdle .producer [msg 3 0xA] []).chan 1).enabled = true ∧
      (alignIdle .producer [msg 3 0xA] []).arch.phase = .idle ∧
      (alignIdle .producer [msg 3 0xA] []).cfg.mode = .align ∧
      (notifyMemory (alignIdle .producer [msg 3 0xA] []).cfg 0
        (Memory.update (alignIdle .producer [msg 3 0xA] []).arch.chans 1 (fun c => c.accept ⟨3, 0xA, []⟩))).2 = true) := by
  decide

theorem witness_AddDataFrame :
    lastDisabled.cur = .producer ∧ lastDisabled.arch.chans.length = lastDisabled.cfg.nChannels ∧
    (0 : ChanIndex).toNat < lastDisabled.cfg.nChannels ∧ (lastDisabled.chan 0).enabled = true ∧
    (after (exec (.addData 0 2 0xA []) lastDisabled)).isSome = true ∧ (Memory.chan lastDisabled.arch.chans 1).enabled = false := by
  decide

/-- On both ports. -/
theorem witness_PopFrontReturnsTheOldest :
    ((alignIdle .producer [] [msg 6 0xA]).cur = .producer ∧
      (1 : ChanIndex).toNat < (alignIdle .producer [] [msg 6 0xA]).cfg.nChannels ∧
      (alignIdle .producer [] [msg 6 0xA]).queue (1 : ChanIndex).toNat = [msg 6 0xA]) ∧
    ((alignBusy .consumer [msg 6 0xA, msg 7 0xA] []).cur = .consumer ∧
      (alignBusy .consumer [msg 6 0xA, msg 7 0xA] []).arch.phase = .dispatch ∧
      (0 : ChanIndex).toNat < (alignBusy .consumer [msg 6 0xA, msg 7 0xA] []).cfg.nChannels ∧
      (alignBusy .consumer [msg 6 0xA, msg 7 0xA] []).queue (0 : ChanIndex).toNat = [msg 6 0xA, msg 7 0xA]) := by decide

theorem witness_PopFrontOnEmptyChangesNothing :
    (alignIdle .producer [] []).cur = .producer ∧ (1 : ChanIndex).toNat < (alignIdle .producer [] []).cfg.nChannels ∧
    (alignIdle .producer [] []).queue (1 : ChanIndex).toNat = [] := by decide

/-- The last position, and the first past the back. -/
theorem witness_PeekReadsWithoutRemoving :
    (alignIdle .producer [msg 1 0xA, msg 2 0xB] []).cur = .producer ∧
    (0 : ChanIndex).toNat < (alignIdle .producer [msg 1 0xA, msg 2 0xB] []).cfg.nChannels ∧
    ((alignIdle .producer [msg 1 0xA, msg 2 0xB] []).queue (0 : ChanIndex).toNat)[(1 : Word).toNat]? =
      some (msg 2 0xB) ∧
    ((alignIdle .producer [msg 1 0xA, msg 2 0xB] []).queue (0 : ChanIndex).toNat).length ≤ (2 : Word).toNat := by decide

theorem witness_PruneAnswersTheAlignmentBit :
    (alignIdle .producer [] [msg 6 0xA]).cur = .producer ∧
    (1 : ChanIndex).toNat < (alignIdle .producer [] [msg 6 0xA]).cfg.nChannels ∧
    ((alignIdle .producer [] [msg 6 0xA]).chan 1).nsc =
      frontSeq ((alignIdle .producer [] [msg 6 0xA]).chan 1).queue := by decide

/-- The least and the greatest legal bound. -/
theorem witness_SetMaxSizeTrimsAtOnce :
    (alignIdle .status [] [msg 6 0xA]).cur = .status ∧
    (alignIdle .status [] [msg 6 0xA]).arch.chans.length = (alignIdle .status [] [msg 6 0xA]).cfg.nChannels ∧
    (1 : ChanIndex).toNat < (alignIdle .status [] [msg 6 0xA]).cfg.nChannels ∧
    ((1 : Word) ≠ 0 ∧ (1 : Word) ≤ (alignIdle .status [] [msg 6 0xA]).cfg.maxSizeLimit) ∧
    ((16 : Word) ≠ 0 ∧ (16 : Word) ≤ (alignIdle .status [] [msg 6 0xA]).cfg.maxSizeLimit) ∧
    ((alignIdle .status [] [msg 6 0xA]).chan 1).nsc =
      frontSeq ((alignIdle .status [] [msg 6 0xA]).chan 1).queue := by decide

theorem witness_SetMaxSizeAllTrimsEveryChannel :
    (alignIdle .producer [msg 6 0xA] []).cur = .producer ∧ (16 : Word) ≠ 0 ∧
    (16 : Word) ≤ (alignIdle .producer [msg 6 0xA] []).cfg.maxSizeLimit ∧
    1 < (alignIdle .producer [msg 6 0xA] []).arch.chans.length := by decide

/-- The value held and the other value. -/
theorem witness_SetEnabledClearsOnTransition :
    lastDisabled.cur = .producer ∧ lastDisabled.arch.chans.length = lastDisabled.cfg.nChannels ∧
    (1 : ChanIndex).toNat < lastDisabled.cfg.nChannels ∧ false = (lastDisabled.chan 1).enabled ∧
    true ≠ (lastDisabled.chan 1).enabled := by decide

theorem witness_SetEnabledAllClearsOnTransition :
    lastDisabled.cur = .producer ∧ true = (Memory.chan lastDisabled.arch.chans 0).enabled ∧
    true ≠ (Memory.chan lastDisabled.arch.chans 1).enabled ∧ 1 < lastDisabled.arch.chans.length := by decide

theorem witness_EntriesAreNeverReordered :
    (after (exec (.addData 0 2 0xA []) lastDisabled)).isSome = true := by decide

/-- A target; no target; a last channel that is disabled, and one that holds data. That one replaces a target that is more
than the threshold above it, and no other. -/
theorem witness_TargetIsAFrontCounter :
    computeTarget 65536 [channel [msg 9 0xA] 8 true, channel [msg 10 0xA] 8 true] = some 10 ∧
    computeTarget 65536 [channel [] 8 true] = none ∧
    (channel [] 8 false).enabled = false ∧
    ((channel [msg 0 0xA] 8 true).enabled = true ∧ (channel [msg 0 0xA] 8 true).queue ≠ []) ∧
    computeTarget 65536 [channel [msg 65537 0xA] 8 true] = some 65537 ∧
    computeTarget 65536 [channel [msg 65537 0xA] 8 true, channel [msg 0 0xA] 8 true] = some 0 ∧
    computeTarget 65536 [channel [msg 65536 0xA] 8 true, channel [msg 0 0xA] 8 true] = some 65536 := by decide

/-- Two fronts exactly the threshold apart. -/
theorem witness_TargetIsTheLargestWithoutWrap :
    (∀ c ∈ [channel [msg 0 0xA] 8 true, channel [msg 65536 0xA] 8 true],
      ∀ d ∈ [channel [msg 0 0xA] 8 true, channel [msg 65536 0xA] 8 true],
        c.enabled = true → d.enabled = true → c.queue ≠ [] → d.queue ≠ [] →
        c.nsc.toNat - d.nsc.toNat ≤ (65536 : Word).toNat) ∧
    computeTarget 65536 [channel [msg 0 0xA] 8 true, channel [msg 65536 0xA] 8 true] = some 65536 := by decide

/-- Aligned; without a target; with a target, an enabled channel that is pruned behind one that fails, and a disabled one. -/
theorem witness_AlignPassReportsAlignment :
    (alignPass 65536 [channel [msg 9 0xA, msg 10 0xA] 8 true, channel [msg 10 0xA] 8 true]).2 = true ∧
    computeTarget 65536 [channel [] 8 true] = none ∧
    computeTarget 65536 [channel [] 8 true, channel [msg 9 0xA] 8 true, channel [msg 10 0xA] 8 true, channel [] 8 false] =
      some 10 ∧
    alignPass 65536 [channel [] 8 true, channel [msg 9 0xA] 8 true, channel [msg 10 0xA] 8 true, channel [] 8 false] =
      ([channel [] 8 true, channel [] 8 true, channel [msg 10 0xA] 8 true, channel [] 8 false], false) := by decide

theorem witness_OneEnabledChannelAlwaysDispatches :
    lastDisabled.cfg.mode = .align ∧ Memory.wf lastDisabled.cfg lastDisabled.arch.chans = true ∧
    lastDisabled.cur = .producer ∧ lastDisabled.arch.phase = .idle ∧
    (0 : ChanIndex).toNat < lastDisabled.cfg.nChannels ∧
    (∀ j, (Memory.chan lastDisabled.arch.chans j).enabled = true ↔ j = (0 : ChanIndex).toNat) := by
  refine ⟨by decide, by decide, by decide, by decide, by decide, fun j => ?_⟩
  rcases j with _ | _ | j
  · decide
  · decide
  · exact ⟨fun h => (by cases h), fun h => (by cases h)⟩

theorem witness_DisabledChannelsHaveNoInfluence : (Memory.chan lastDisabled.arch.chans 1).enabled = false := by decide

/-- The dispatch of S6, in CPI mode, and one in ALIGN mode. -/
theorem witness_DispatchShowsACompleteSet :
    ((cpiIdle .producer [msg 1 0xA, msg 2 0xA, msg 3 0xA, msg 4 0xA]).arch.phase = .idle ∧
      (cpiIdle .producer [msg 1 0xA, msg 2 0xA, msg 3 0xA, msg 4 0xA]).cfg.mode = .cpi ∧
      (after (exec (.addData 0 5 0xB []) (cpiIdle .producer [msg 1 0xA, msg 2 0xA, msg 3 0xA, msg 4 0xA]))).map
        (fun t => t.arch.phase) = some .dispatch) ∧
    (lastDisabled.arch.phase = .idle ∧ lastDisabled.cfg.mode = .align ∧
      (after (exec (.addData 0 2 0xA []) lastDisabled)).map (fun t => t.arch.phase) = some .dispatch) := by decide

/-- The fifth message of S6, in CPI mode. -/
def fourA : State := cpiIdle .producer [msg 1 0xA, msg 2 0xA, msg 3 0xA, msg 4 0xA]

/-- In CPI mode (S6), and in ALIGN mode. -/
theorem witness_CompleteSetIsDispatched :
    (fourA.cur = .producer ∧ fourA.arch.phase = .idle ∧ Memory.wf fourA.cfg fourA.arch.chans = true ∧
      spanWf fourA.cfg fourA.arch.cpiSpan = true ∧ (0 : ChanIndex).toNat < fourA.cfg.nChannels ∧
      (fourA.chan 0).enabled = true ∧
      Memory.update fourA.arch.chans 0 (fun c => c.accept (msg 5 0xB)) =
        [channel [msg 1 0xA, msg 2 0xA, msg 3 0xA, msg 4 0xA, msg 5 0xB] 8 true] ∧
      HasFront 1 (channel [msg 1 0xA, msg 2 0xA, msg 3 0xA, msg 4 0xA, msg 5 0xB] 8 true) ∧
      HoldsCompleteCpi fourA.arch.cpiSpan (channel [msg 1 0xA, msg 2 0xA, msg 3 0xA, msg 4 0xA, msg 5 0xB] 8 true)) ∧
    (lastDisabled.cur = .producer ∧ lastDisabled.arch.phase = .idle ∧
      Memory.wf lastDisabled.cfg lastDisabled.arch.chans = true ∧
      spanWf lastDisabled.cfg lastDisabled.arch.cpiSpan = true ∧ (0 : ChanIndex).toNat < lastDisabled.cfg.nChannels ∧
      (lastDisabled.chan 0).enabled = true ∧ lastDisabled.cfg.mode = .align ∧
      Memory.update lastDisabled.arch.chans 0 (fun c => c.accept (msg 2 0xA)) =
        [channel [msg 1 0xA, msg 2 0xA] 8 true, channel [] 8 false] ∧
      HasFront 1 (channel [msg 1 0xA, msg 2 0xA] 8 true)) := by
  refine ⟨⟨by decide, by decide, by decide, by decide, by decide, by decide, by decide, ⟨_, _, rfl, rfl⟩, ?_⟩,
    by decide, by decide, by decide, by decide, by decide, by decide, by decide, by decide, ⟨_, _, rfl, rfl⟩⟩
  unfold HoldsCompleteCpi; decide

theorem witness_OnlyAddDataDispatches :
    lastDisabled.arch.phase = .idle ∧
    (after (exec (.addData 0 2 0xA []) lastDisabled)).map (fun t => t.arch.phase) = some .dispatch := by decide

theorem witness_DoneEndsTheDispatch :
    (alignBusy .consumer [] []).cur = .consumer ∧ (alignBusy .consumer [] []).arch.phase = .dispatch := by decide

/-- DONE offered in a dispatch. -/
def ending : State := offering (alignBusy .producer [] []) [.command .consumer ⟨0xA4000000, [], none⟩]

theorem witness_OnlyDoneOrResetEndsADispatch :
    ending.arch.phase = .dispatch ∧ (after (step ending)).map (fun t => t.arch.phase) = some .idle := by decide

/-- Span 2: a queue of exactly 2; no change in 3; the first change at 2; the first change at 1. -/
theorem witness_CpiCheckFindsTheFirstChange :
    [msg 1 0xA, msg 2 0xA].length ≤ (2 : Word).toNat ∧
    ((2 : Word).toNat < [msg 1 0xA, msg 2 0xA, msg 3 0xA].length ∧
      boundary [msg 1 0xA, msg 2 0xA, msg 3 0xA] 2 = none) ∧
    ([msg 1 0xA, msg 2 0xA, msg 3 0xB][2]?.map Entry.code ≠ [msg 1 0xA, msg 2 0xA, msg 3 0xB][1]?.map Entry.code ∧
      [msg 1 0xA, msg 2 0xA, msg 3 0xB][1]?.map Entry.code = [msg 1 0xA, msg 2 0xA, msg 3 0xB][0]?.map Entry.code) ∧
    [msg 1 0xA, msg 2 0xB, msg 3 0xB][1]?.map Entry.code ≠ [msg 1 0xA, msg 2 0xB, msg 3 0xB][0]?.map Entry.code := by
  decide

theorem witness_RejectionDropsTheIncompleteRun :
    (channel [msg 1 0xA, msg 2 0xB] 8 true).queue[1]? = some (msg 2 0xB) ∧ (msg 1 0xA).seq.toNat < (msg 2 0xB).seq.toNat := by
  decide

/-- One input for each clause, with CPI_SPAN = 2: not aligned; OK; NOBOUNDARY; REJECTED, then not aligned; REJECTED, then
OK; REJECTED twice (V-CPI-8). -/
theorem witness_CpiNotifyChecksAllAndRetriesOnce :
    (build 1 .cpi 2).mode = .cpi ∧
    alignPass 65536 [channel [] 8 true] = ([channel [] 8 true], false) ∧
    (alignPass 65536 [channel [msg 1 0xA, msg 2 0xA, msg 3 0xB] 8 true] =
        ([channel [msg 1 0xA, msg 2 0xA, msg 3 0xB] 8 true], true) ∧
      AllVerdictsOk 65536 2 [channel [msg 1 0xA, msg 2 0xA, msg 3 0xB] 8 true]) ∧
    (alignPass 65536 [channel [msg 1 0xA, msg 2 0xA, msg 3 0xA] 8 true] =
        ([channel [msg 1 0xA, msg 2 0xA, msg 3 0xA] 8 true], true) ∧
      ¬ AllVerdictsOk 65536 2 [channel [msg 1 0xA, msg 2 0xA, msg 3 0xA] 8 true] ∧
      ¬ SomeVerdictRejected 65536 2 [channel [msg 1 0xA, msg 2 0xA, msg 3 0xA] 8 true]) ∧
    ((alignPass 65536 [channel [msg 1 0xA, msg 3 0xB, msg 4 0xB] 8 true, channel [msg 1 0xA, msg 2 0xB, msg 4 0xB] 8 true]).2 =
        true ∧
      SomeVerdictRejected 65536 2
        [channel [msg 1 0xA, msg 3 0xB, msg 4 0xB] 8 true, channel [msg 1 0xA, msg 2 0xB, msg 4 0xB] 8 true] ∧
      alignPass 65536 (checkedEvery 65536 2
          [channel [msg 1 0xA, msg 3 0xB, msg 4 0xB] 8 true, channel [msg 1 0xA, msg 2 0xB, msg 4 0xB] 8 true]) =
        ([channel [msg 3 0xB, msg 4 0xB] 8 true, channel [msg 4 0xB] 8 true], false)) ∧
    (SomeVerdictRejected 65536 2 [channel [msg 1 0xA, msg 2 0xB, msg 3 0xB, msg 4 0xC] 8 true] ∧
      alignPass 65536 (checkedEvery 65536 2 [channel [msg 1 0xA, msg 2 0xB, msg 3 0xB, msg 4 0xC] 8 true]) =
        ([channel [msg 2 0xB, msg 3 0xB, msg 4 0xC] 8 true], true) ∧
      AllVerdictsOk 65536 2 [channel [msg 2 0xB, msg 3 0xB, msg 4 0xC] 8 true]) ∧
    (SomeVerdictRejected 65536 2 [channel [msg 65535 0xA, msg 0 0xB, msg 1 0xB] 3 true] ∧
      alignPass 65536 (checkedEvery 65536 2 [channel [msg 65535 0xA, msg 0 0xB, msg 1 0xB] 3 true]) =
        ([channel [msg 65535 0xA, msg 0 0xB, msg 1 0xB] 3 true], true) ∧
      ¬ AllVerdictsOk 65536 2 [channel [msg 65535 0xA, msg 0 0xB, msg 1 0xB] 3 true]) := by
  unfold AllVerdictsOk SomeVerdictRejected; decide

/-- A bound equal to the span. -/
def smallBound : State := idle (build 1 .cpi 4) .producer [channel [msg 1 0xA] 4 true]

theorem witness_SmallBoundNeverDispatches :
    smallBound.inv = true ∧ smallBound.cfg.mode = .cpi ∧
    (∃ c ∈ smallBound.arch.chans, c.enabled = true ∧ c.maxSize ≤ smallBound.arch.cpiSpan) ∧
    (after (exec (.addData 0 2 0xB []) smallBound)).isSome = true ∧ smallBound.arch.phase = .idle := by decide

theorem witness_SetCpiSpanWritesTheSpan :
    (cpiIdle .status []).cur = .status ∧ (cpiIdle .status []).cfg.mode = .cpi ∧ (1 : Word) ≠ 0 ∧
    (0xFFFFFFFF : Word) ≠ 0 := by decide

/-- On each of the three ports. -/
theorem witness_ReadChStatusIsExact :
    (alignIdle .producer [] []).cur = .producer ∧
    ((alignBusy .consumer [] []).cur = .consumer ∧ (alignBusy .consumer [] []).arch.phase = .dispatch) ∧
    ((alignIdle .status [] []).cur = .status ∧ (alignIdle .status [] []).inProgress = none) ∧
    (1 : ChanIndex).toNat < (alignIdle .status [] []).cfg.nChannels := by decide

theorem witness_ReadGlobalIsExact :
    (alignBusy .consumer [] []).cur = .consumer ∧ (alignBusy .consumer [] []).arch.phase = .dispatch := by decide

theorem witness_RelaxedReadShowsOneBoundaryState :
    (alignBusy .status [] []).cur = .status ∧ (alignBusy .status [] []).inProgress.isSome = true ∧
    (1 : ChanIndex).toNat < (alignBusy .status [] []).cfg.nChannels := by decide

/-- A held SET_*, and DONE behind it. -/
def held : State :=
  offering (alignBusy .producer [] []) [.command .status ⟨0x20000001, [], none⟩, .command .consumer ⟨0xA4000000, [], none⟩]

/-- Idle on port P, and busy on port C with a held command before it. -/
theorem witness_StepRunsTheDecodedInstruction :
    (erring.cfg.legal = true ∧ erring.nextEvent = some ⟨[], .command .producer ⟨0x80000002, [], none⟩, []⟩ ∧
      decode ⟨0x80000002, [], none⟩ = .ok (.readChStatus 2) ∧
      StartsAtOnce erring .producer ⟨0x80000002, [], none⟩) ∧
    (held.cfg.legal = true ∧
      held.nextEvent =
        some ⟨[.command .status ⟨0x20000001, [], none⟩], .command .consumer ⟨0xA4000000, [], none⟩, []⟩ ∧
      decode ⟨0xA4000000, [], none⟩ = .ok (.done true)) := by
  unfold StartsAtOnce; decide

theorem witness_BusyPortHoldsCommands :
    held.cfg.legal = true ∧ held.inProgress.isSome = true ∧ held.nextEvent.isSome = true ∧
    isConfigWrite ⟨0x20000001, [], none⟩ = true := by decide

theorem witness_PortOrderIsKept :
    held.nextEvent = some ⟨[.command .status ⟨0x20000001, [], none⟩], .command .consumer ⟨0xA4000000, [], none⟩, []⟩ := by
  decide

/-- An ADD_DATA that enters a dispatch, offered on port P. -/
def entering : State := offering lastDisabled [.command .producer ⟨0x10000000, [2, 0xA], some []⟩]

/-- An error, a dispatch entered, and one ended. -/
theorem witness_EveryCommandIsAnsweredOnce :
    (erring.arch.phase = .idle ∧
      erring.nextEvent = some ⟨[], .command .producer ⟨0x80000002, [], none⟩, []⟩ ∧
      (after (step erring)).isSome = true) ∧
    (entering.arch.phase = .idle ∧
      entering.nextEvent = some ⟨[], .command .producer ⟨0x10000000, [2, 0xA], some []⟩, []⟩ ∧
      (after (step entering)).map (fun t => (t.outbox, t.arch.phase)) = some ([], .dispatch)) ∧
    (Port.consumer ≠ .producer ∧
      ending.nextEvent = some ⟨[], .command .consumer ⟨0xA4000000, [], none⟩, []⟩ ∧
      (after (step ending)).map (fun t => t.outbox.length) = some 2) := by decide

theorem witness_ProperUseNeverStops : held.cfg.legal = true ∧ held.properInbox = true := by decide

theorem witness_MisframedTransactionFaults : (Transaction.mk 0x60000002 [] none).framed = false := by decide

theorem witness_ParametersAreFixed :
    (after (step held)).isSome = true ∧
    (after (step (offering held [.reset (build 1 .cpi 4)]))).map (fun t => t.cfg) = some (build 1 .cpi 4) := by decide

theorem witness_ResetLeavesTheStatedValues : 1 < (build 2 .cpi 4).nChannels ∧ (build 2 .cpi 4).mode = .cpi := by decide

/-- A reset behind a held SET_* of port S and the next command of port P. -/
def resetBehind : State :=
  offering (alignBusy .producer [] [])
    [.command .status ⟨0x20000001, [], none⟩, .command .producer ⟨0x90000000, [], none⟩, .reset (build 65536 .cpi 1)]

/-- A reset offered first, and one behind waiting commands. -/
theorem witness_ResetAbandonsWorkInProgress :
    (held.cfg.legal = true ∧ (build 65536 .cpi 1).legal = true ∧
      (offering held [.reset (build 65536 .cpi 1)]).inbox = [.reset (build 65536 .cpi 1)]) ∧
    (resetBehind.cfg.legal = true ∧ resetBehind.inProgress.isSome = true ∧
      resetBehind.nextEvent =
        some ⟨[.command .status ⟨0x20000001, [], none⟩, .command .producer ⟨0x90000000, [], none⟩],
          .reset (build 65536 .cpi 1), []⟩ ∧
      isConfigWrite ⟨0x20000001, [], none⟩ = true) := by decide

/-- No channel, and one channel too many; a CPI build without a span. -/
theorem witness_IllegalBuildIsRefused :
    (idle (build 0 .align 0) .producer []).cfg.nChannels = 0 ∧
    65536 < (idle (build 65537 .align 0) .producer []).cfg.nChannels ∧
    ((idle (build 1 .cpi 0) .producer []).cfg.mode = .cpi ∧ (idle (build 1 .cpi 0) .producer []).cfg.defaultCpiSpan = 0) ∧
    (build 65537 .align 0).legal = false ∧
    (offering held [.reset (build 65537 .align 0)]).nextEvent = some ⟨[], .reset (build 65537 .align 0), []⟩ := by decide

theorem witness_InvariantHoldsAtReset : (build 1 .align 0).legal = true ∧ (build 65536 .cpi 1).legal = true := by decide

theorem witness_EveryStepKeepsTheInvariant :
    ending.inv = true ∧ (after (step ending)).isSome = true ∧ held.inv = true ∧ (after (step held)).isSome = true := by decide

end Sys2Proof.Tests
end

section
/-! The entries of a channel under every instruction (20_memory.md R30): each operation on the storage takes a rear part
of every queue, so only ADD_DATA, which appends to its channel first, needs a word of its own. -/

namespace Sys2Proof.Machine

/-! ### The primitives on one channel -/

theorem Channel.popFront_queue_suffix (c : Channel) : c.popFront.queue <:+ c.queue :=
  List.tail_suffix c.queue

theorem Channel.prune_queue_suffix (threshold t : Word) (c : Channel) : (c.prune threshold t).queue <:+ c.queue := by
  rw [Channel.prune_queue]
  exact List.dropWhile_suffix _

theorem Channel.trim_queue_suffix (c : Channel) : c.trim.queue <:+ c.queue := by
  rw [Channel.trim_queue]
  exact List.drop_suffix _ _

theorem Channel.setBound_queue_suffix (n : Word) (c : Channel) : (c.setBound n).queue <:+ c.queue :=
  Channel.trim_queue_suffix { c with maxSize := n }

theorem Channel.setEnable_queue_suffix (v : Bool) (c : Channel) : (c.setEnable v).queue <:+ c.queue := by
  unfold Channel.setEnable
  split
  · exact List.nil_suffix
  · exact List.suffix_rfl

/-- ADD_DATA's append and trim leave a rear part of the queue with the message behind it (R56). -/
theorem Channel.accept_queue_suffix (c : Channel) (e : Entry) : (c.accept e).queue <:+ c.queue ++ [e] :=
  Channel.trim_queue_suffix (c.append e)

/-! ### The storage -/

/-- Every queue of m' is a rear part of the queue of the same channel of m, its entries unchanged and in order (R30). -/
def RearPart (m m' : Memory) : Prop :=
  ∀ j, (Memory.chan m' j).queue <:+ (Memory.chan m j).queue

theorem RearPart.refl (m : Memory) : RearPart m m := fun _ => List.suffix_rfl

theorem PrunedFrom.rearPart {m m' : Memory} (h : PrunedFrom m m') : RearPart m m' := by
  intro j
  obtain ⟨_, _, hqueue, _⟩ := h.chan j
  exact hqueue

theorem Memory.update_rearPart (m : Memory) (i : Nat) {f : Channel → Channel} (hf : ∀ c, (f c).queue <:+ c.queue) :
    RearPart m (Memory.update m i f) := by
  intro j
  rw [Memory.chan_update]
  split
  · exact hf _
  · exact List.suffix_rfl

theorem Memory.map_rearPart (m : Memory) {f : Channel → Channel} (hf : ∀ c, (f c).queue <:+ c.queue) :
    RearPart m (m.map f) := by
  intro j
  unfold Memory.chan
  rw [List.getElem?_map]
  cases m[j]? with
  | none => exact List.suffix_rfl
  | some c => exact hf c

/-! ### The instructions -/

/-- An error answer leaves the storage alone, so a guarded command takes rear parts where its effect does (R88). -/
theorem State.guarded_rearPart {s t effect : State} {checks : List (Option Status)}
    (h : s.guarded checks effect = .next t) (heffect : RearPart s.arch.chans effect.arch.chans) :
    RearPart s.arch.chans t.arch.chans := by
  rcases State.guarded_next h with ⟨_, _, rfl⟩ | ⟨_, rfl⟩
  · exact RearPart.refl _
  · exact heffect

/-- An accepted message is notified of whether or not that enters a dispatch, and in whatever phase (R56). -/
theorem State.acceptMessage_arch (s : State) (ch : ChanIndex) (e : Entry) :
    (s.acceptMessage ch e).arch =
      notify s.cfg (s.arch.withChans (Memory.update s.arch.chans ch.toNat (fun c => c.accept e))) := by
  dsimp only [State.acceptMessage]
  split <;> rfl

/-- An accepted message stands behind a rear part of its own channel's queue; every other channel keeps a rear part. -/
theorem State.acceptMessage_queue_suffix (s : State) (ch : ChanIndex) (e : Entry) (j : Nat) :
    (s.acceptMessage ch e).queue j <:+ s.queue j ∨
      ch.toNat = j ∧ (s.acceptMessage ch e).queue j <:+ s.queue j ++ [e] := by
  have hnotify : (s.acceptMessage ch e).queue j <:+
      (Memory.chan (Memory.update s.arch.chans ch.toNat (fun c => c.accept e)) j).queue := by
    unfold State.queue
    rw [State.acceptMessage_arch]
    obtain ⟨hpruned, _⟩ := notify_cases s.cfg
      (s.arch.withChans (Memory.update s.arch.chans ch.toNat (fun c => c.accept e)))
    exact hpruned.rearPart j
  rw [Memory.chan_update] at hnotify
  split at hnotify
  · next hch => exact .inr ⟨hch.1, hnotify.trans (Channel.accept_queue_suffix _ e)⟩
  · exact .inl hnotify

theorem execAddData_queue_suffix {ch : ChanIndex} {seq code : Word} {payload : Payload} {s t : State}
    (h : execAddData ch seq code payload s = .next t) (j : Nat) :
    t.queue j <:+ s.queue j ∨ ch.toNat = j ∧ t.queue j <:+ s.queue j ++ [⟨seq, code, payload⟩] := by
  rcases State.guarded_next h with ⟨_, _, rfl⟩ | ⟨_, rfl⟩
  · exact .inl List.suffix_rfl
  · split
    · exact s.acceptMessage_queue_suffix ch ⟨seq, code, payload⟩ j
    · exact .inl List.suffix_rfl

theorem execPopFront_rearPart {ch : ChanIndex} {s t : State} (h : execPopFront ch s = .next t) :
    RearPart s.arch.chans t.arch.chans := by
  refine State.guarded_rearPart h ?_
  split
  · exact RearPart.refl _
  · exact Memory.update_rearPart _ _ Channel.popFront_queue_suffix

/-- Every instruction but ADD_DATA leaves a rear part of each queue (R30). -/
theorem exec_rearPart {i : Instr} {s t : State} (h : exec i s = .next t)
    (hi : ∀ ch seq code payload, i ≠ .addData ch seq code payload) : RearPart s.arch.chans t.arch.chans := by
  cases i with
  | addData ch seq code payload => exact absurd rfl (hi ch seq code payload)
  | popFront ch => exact execPopFront_rearPart h
  | prune ch target =>
    exact State.guarded_rearPart h (Memory.update_rearPart _ _ (Channel.prune_queue_suffix _ target))
  | setMaxSize ch n => exact State.guarded_rearPart h (Memory.update_rearPart _ _ (Channel.setBound_queue_suffix n))
  | setMaxSizeAll n => exact State.guarded_rearPart h (Memory.map_rearPart _ (Channel.setBound_queue_suffix n))
  | setEnabled ch v => exact State.guarded_rearPart h (Memory.update_rearPart _ _ (Channel.setEnable_queue_suffix v))
  | setEnabledAll v => exact State.guarded_rearPart h (Memory.map_rearPart _ (Channel.setEnable_queue_suffix v))
  | setCpiSpan n => exact State.guarded_rearPart h (RearPart.refl _)
  | peek ch pos => exact State.guarded_rearPart h (RearPart.refl _)
  | readChStatus ch => exact State.guarded_rearPart h (RearPart.refl _)
  | readGlobal => exact State.guarded_rearPart h (RearPart.refl _)
  | done v => exact State.guarded_rearPart h (RearPart.refl _)

/-- Settles O27: ADD_DATA by what an accepted message does to each queue, every other instruction by `exec_rearPart`. -/
theorem entriesAreNeverReordered : Obligations.EntriesAreNeverReordered := by
  unfold Obligations.EntriesAreNeverReordered
  intro i s t h j
  by_cases hi : ∃ ch seq code payload, i = .addData ch seq code payload
  · obtain ⟨ch, seq, code, payload, rfl⟩ := hi
    rcases execAddData_queue_suffix h j with hrear | ⟨hch, hbehind⟩
    · exact .inl hrear
    · exact .inr ⟨ch, seq, code, payload, rfl, hch, hbehind⟩
  · exact .inl (exec_rearPart h (fun ch seq code payload heq => hi ⟨ch, seq, code, payload, heq⟩) j)

end Sys2Proof.Machine
end

section
/-! The reserved OP values (30_encoding.md R43): read off the command word as a number, they select no opcode, so no word
follows and the decoder refuses the transaction by name. -/

namespace Sys2Proof

/-- OP is what stands above bit 27 of the command word (R38). -/
@[simp] theorem opField_toNat (cw : Word) : (opField cw).toNat = cw.toNat / 2 ^ 28 := by
  have hcw : cw.toNat < 2 ^ 32 := cw.isLt
  rw [opField, BitVec.extractLsb'_toNat, Nat.shiftRight_eq_div_pow]
  exact Nat.mod_eq_of_lt (by omega)

/-- The values 0 and 11 to 15, and no others, select no opcode (R42, R43). -/
theorem Opcode.ofField_eq_none_iff (op : BitVec 4) :
    Opcode.ofField op = none ↔ op.toNat = 0 ∨ 11 ≤ op.toNat := by
  unfold Opcode.ofField
  split
  case h_11 => simp only [imp_false, true_iff] at *; omega
  all_goals simp only [reduceCtorEq, false_iff]; omega

theorem ofField_opField_eq_none_iff (cw : Word) :
    Opcode.ofField (opField cw) = none ↔ cw.toNat / 2 ^ 28 = 0 ∨ 11 ≤ cw.toNat / 2 ^ 28 := by
  rw [Opcode.ofField_eq_none_iff, opField_toNat]

theorem operandWordsOf_of_reserved {cw : Word} (h : Opcode.ofField (opField cw) = none) : operandWordsOf cw = 0 := by
  simp only [operandWordsOf, h]

theorem takesPayloadOf_of_reserved {cw : Word} (h : Opcode.ofField (opField cw) = none) :
    takesPayloadOf cw = false := by
  simp only [takesPayloadOf, h]

/-- A transaction is framed after a reserved OP exactly where nothing follows the command word (R43). -/
theorem Transaction.framed_iff_of_reserved {t : Transaction} (h : Opcode.ofField (opField t.cw) = none) :
    t.framed = true ↔ t.operands = [] ∧ t.payload = none := by
  simp [Transaction.framed, operandWordsOf_of_reserved h, takesPayloadOf_of_reserved h]

theorem decode_of_reserved {t : Transaction} (h : Opcode.ofField (opField t.cw) = none) (hframed : t.framed = true) :
    decode t = .error .reservedOpcode := by
  simp only [decode, hframed, if_true, h]

end Sys2Proof

namespace Sys2Proof.Machine

/-- An error answer is one more response, of the status alone (R88). -/
theorem State.raise_eq_answered (s : State) (e : Status) : s.raise e = Answered s (errorResponse e) := rfl

/-- The response word of ErrOPCODE is its code, 3 (R40, R87). -/
theorem errorResponse_errOpcode : errorResponse .errOpcode = { rw := 3 } := by decide

theorem serve_of_reserved {t : Transaction} {s : State} (h : decode t = .error .reservedOpcode) :
    serve t s = .next (s.raise .errOpcode) := by
  simp only [serve, h]

/-- Settles O4: a reserved OP selects no opcode, from which the frame, the decoder's refusal and the answer follow. -/
theorem reservedOpcodeIsAnswered : Obligations.ReservedOpcodeIsAnswered := by
  unfold Obligations.ReservedOpcodeIsAnswered
  intro t s hop
  have hreserved : Opcode.ofField (opField t.cw) = none := (ofField_opField_eq_none_iff t.cw).mpr hop
  refine ⟨operandWordsOf_of_reserved hreserved, takesPayloadOf_of_reserved hreserved, fun hoperands hpayload => ?_⟩
  have hframed : t.framed = true := (Transaction.framed_iff_of_reserved hreserved).mpr ⟨hoperands, hpayload⟩
  calc serve t s
      = .next (s.raise .errOpcode) := serve_of_reserved (decode_of_reserved hreserved hframed)
    _ = .next (Answered s { rw := 3 }) := by rw [State.raise_eq_answered, errorResponse_errOpcode]

end Sys2Proof.Machine
end

section
/-! The primitives on one channel (40_buffer.md R51, R53 to R55): the comparison as a statement about numbers, and where
Trim and Prune change nothing, from which the queue they leave and the NSC beside it follow. -/

namespace Sys2Proof.Machine

/-! ### The wraparound comparison -/

/-- The difference is read only where t is the smaller counter, so it does not wrap (R51). -/
theorem older_eq_true_iff (T f t : Word) :
    older T f t = true ↔ f.toNat < t.toNat ∨ (t.toNat < f.toNat ∧ T.toNat < f.toNat - t.toNat) := by
  simp only [older, Bool.or_eq_true, Bool.and_eq_true, decide_eq_true_eq, gt_iff_lt, BitVec.lt_def]
  refine or_congr_right (and_congr_right fun hlt => ?_)
  rw [BitVec.toNat_sub_of_le (BitVec.le_def.mpr hlt.le)]

/-- R51 at the default of WRAP_THRESHOLD, the form that arithmetic reads. -/
theorem older_default_iff (f t : Word) :
    older 65536 f t = true ↔ f.toNat < t.toNat ∨ (t.toNat < f.toNat ∧ 65536 < f.toNat - t.toNat) :=
  older_eq_true_iff 65536 f t

/-- Settles O11: each clause reads `older_eq_true_iff` on numbers; the five examples are evaluated. -/
theorem olderComparesWithWraparound : Obligations.OlderComparesWithWraparound := by
  unfold Obligations.OlderComparesWithWraparound
  refine ⟨older_eq_true_iff, older_self, fun f t hlt hold => ?_, fun f t hf ht => ?_, by decide⟩
  · rw [older_default_iff] at hold
    omega
  · rw [older_default_iff]
    omega

/-! ### Trim -/

theorem Channel.trim_eq_self {c : Channel} (h : c.queue.length ≤ c.maxSize.toNat) : c.trim = c := by
  rw [Channel.trim_spec, if_pos h]

theorem Channel.trim_nsc_of_lt {c : Channel} (h : c.maxSize.toNat < c.queue.length) :
    c.trim.nsc = frontSeq c.trim.queue := by
  rw [Channel.trim_spec, if_neg h.not_ge]

theorem Channel.trim_queue_length (c : Channel) : c.trim.queue.length = min c.queue.length c.maxSize.toNat := by
  rw [Channel.trim_queue, List.length_drop]
  omega

/-- Settles O12: the queue that `Channel.trim_queue` names, its length, and the two sides of the bound. -/
theorem trimKeepsTheNewest : Obligations.TrimKeepsTheNewest := by
  unfold Obligations.TrimKeepsTheNewest
  intro c
  exact ⟨c.trim_queue, c.trim_queue_length, c.trim_maxSize, c.trim_enabled, Channel.trim_eq_self,
    Channel.trim_nsc_of_lt⟩

/-! ### Prune -/

section
variable {T t : Word} {c : Channel}

/-- What Prune takes is a front part of the queue, all of it older than the target. -/
theorem Channel.prune_takes_older (T t : Word) (c : Channel) :
    ∃ gone, c.queue = gone ++ (c.prune T t).queue ∧ ∀ e ∈ gone, older T e.seq t = true := by
  refine ⟨c.queue.takeWhile (fun e => older T e.seq t), ?_, fun e he => ?_⟩
  · rw [Channel.prune_queue, List.takeWhile_append_dropWhile]
  · exact List.mem_takeWhile_imp (p := fun e : Entry => older T e.seq t) he

/-- The front that Prune stops at is not older than the target. -/
theorem Channel.prune_front_not_older {e : Entry} {q : List Entry} (h : (c.prune T t).queue = e :: q) :
    older T e.seq t = false := by
  rw [Channel.prune_queue] at h
  have hfront := List.dropWhile_get_zero_not (fun e => older T e.seq t) c.queue (by simp [h])
  simpa [h] using hfront

/-- Prune does not run where the queue is empty or its front is not older than the target (R54). -/
theorem Channel.prune_eq_self (h : ∀ e q, c.queue = e :: q → older T e.seq t = false) : c.prune T t = c := by
  unfold Channel.prune
  cases hq : c.queue with
  | nil => rfl
  | cons e q => simp [Channel.pruneLoop, hq, h e q hq]

theorem Channel.prune_eq_self_of_queue_eq (h : (c.prune T t).queue = c.queue) : c.prune T t = c :=
  Channel.prune_eq_self fun _ _ hq => Channel.prune_front_not_older (h.trans hq)

theorem Channel.prune_eq_self_of_empty (h : c.queue = []) : c.prune T t = c :=
  Channel.prune_eq_self fun _ _ hq => nomatch h.symm.trans hq

theorem Channel.prune_nsc_of_queue_ne (h : (c.prune T t).queue ≠ c.queue) :
    (c.prune T t).nsc = frontSeq (c.prune T t).queue := by
  cases hq : c.queue with
  | nil => exact absurd (congrArg Channel.queue (Channel.prune_eq_self_of_empty hq)) h
  | cons e q =>
    have hold : older T e.seq t = true := by
      by_contra hnot
      refine h (congrArg Channel.queue (Channel.prune_eq_self fun e' q' hq' => ?_))
      obtain ⟨rfl, -⟩ := List.cons.inj (hq.symm.trans hq')
      exact Bool.eq_false_iff.mpr hnot
    simp [Channel.prune_spec, hq, hold]

/-- After the first call the queue is empty or its front is not older than the target (R54). -/
theorem Channel.prune_prune (T t : Word) (c : Channel) : (c.prune T t).prune T t = c.prune T t :=
  Channel.prune_eq_self fun _ _ => Channel.prune_front_not_older

theorem Channel.frontIs_of_empty (h : c.queue = []) : c.frontIs t = false := by
  simp [Channel.frontIs, h]

end

/-- Settles O13: what leaves, the front that stays, and that Prune does not run where no front is older. -/
theorem pruneStopsAtFirstNotOlder : Obligations.PruneStopsAtFirstNotOlder := by
  unfold Obligations.PruneStopsAtFirstNotOlder
  intro T t c
  refine ⟨c.prune_takes_older T t, fun _ _ => Channel.prune_front_not_older, c.prune_maxSize T t, c.prune_enabled T t,
    Channel.prune_eq_self_of_queue_eq, Channel.prune_nsc_of_queue_ne, Channel.frontIs_iff _ t, fun hempty => ?_,
    c.prune_prune T t⟩
  rw [Channel.prune_eq_self_of_empty hempty]
  exact ⟨rfl, Channel.frontIs_of_empty hempty⟩

/-! ### Clear -/

/-- Settles O14, by the rule of `Channel.clear` for each field. -/
theorem clearEmptiesTheQueue : Obligations.ClearEmptiesTheQueue := by
  unfold Obligations.ClearEmptiesTheQueue
  intro c
  exact ⟨c.clear_queue, c.clear_nsc, c.clear_maxSize, c.clear_enabled⟩

end Sys2Proof.Machine
end

section
/-! A command answered with an error (60_exceptions.md R88). A command of the block either ends in the one error answer of
its checks, which gives a response and changes nothing else, or gives only answers whose STATUS is OK. So a non-zero STATUS
can come from the error answer alone. -/

namespace Sys2Proof.Machine

/-! ### The status in a response word -/

/-- STATUS is bits 3:0 of the response word (R40): DISP, CB and RB stand above it. -/
theorem responseWord_setWidth (status : Status) (disp : BitVec 2) (cb rb : Bool) :
    (responseWord status disp cb rb).setWidth 4 = status.code := by
  apply BitVec.eq_of_getLsbD_eq
  intro i hi
  simp [responseWord, hi]

theorem responseWord_status (status : Status) (disp : BitVec 2) (cb rb : Bool) :
    (responseWord status disp cb rb).toNat % 16 = status.code.toNat := by
  rw [← responseWord_setWidth status disp cb rb, BitVec.toNat_setWidth]

/-- The response word of an error holds its code and nothing else (R88). -/
theorem errorResponse_rw (e : Status) : (errorResponse e).rw = e.code.setWidth 32 := by
  simp [errorResponse, responseWord, bitWord]

theorem errorResponse_rw_lt (e : Status) : (errorResponse e).rw.toNat < 16 := by
  rw [errorResponse_rw, BitVec.toNat_setWidth]
  exact (Nat.mod_le _ _).trans_lt e.code.isLt

/-- The STATUS of the response is OK (R40, R87). -/
def Response.StatusOk (r : Response) : Prop := r.rw.toNat % 16 = 0

theorem okResponse_statusOk : okResponse.StatusOk := responseWord_status .ok _ _ _

theorem bitResponse_statusOk (rb : Bool) : (bitResponse rb).StatusOk := responseWord_status .ok _ _ _

theorem dataResponse_statusOk (data : List Word) : (dataResponse data).StatusOk := responseWord_status .ok _ _ _

theorem entryResponse_statusOk (e : Option Entry) : (entryResponse e).StatusOk := by
  cases e with
  | none => exact responseWord_status .ok _ _ _
  | some e => exact responseWord_status .ok _ _ _

theorem dispatchedResponse_statusOk (kind : DispatchKind) (cb : Bool) : (dispatchedResponse kind cb).StatusOk :=
  responseWord_status .ok _ _ _

/-! ### Answers without an error -/

/-- From s to t responses were only added, each with STATUS OK; there may be none (R68) or two (R69). -/
def AnswersOk (s t : State) : Prop :=
  ∃ given, t.outbox = s.outbox ++ given ∧ ∀ r ∈ given, r.response.StatusOk

theorem AnswersOk.of_outbox_eq {s t : State} (h : t.outbox = s.outbox) : AnswersOk s t :=
  ⟨[], by simp [h], by simp⟩

theorem AnswersOk.respond {s t : State} {p : Port} {r : Response} (h : AnswersOk s t) (hr : r.StatusOk) :
    AnswersOk s (t.respond p r) := by
  obtain ⟨given, houtbox, hgiven⟩ := h
  refine ⟨given ++ [⟨p, r⟩], by simp [houtbox], fun r' hr' => ?_⟩
  rcases List.mem_append.mp hr' with hr' | hr'
  · exact hgiven r' hr'
  · rwa [List.mem_singleton.mp hr']

/-- The one answer that most commands give (R37). -/
theorem AnswersOk.respond_once {s t : State} {p : Port} {r : Response} (h : t.outbox = s.outbox) (hr : r.StatusOk) :
    AnswersOk s (t.respond p r) :=
  (AnswersOk.of_outbox_eq h).respond hr

/-- What AnswersOk says of the responses given since s. -/
theorem AnswersOk.status_eq_zero {s t : State} (h : AnswersOk s t) {r : Reply}
    (hr : r ∈ t.outbox.drop s.outbox.length) : r.response.rw.toNat % 16 = 0 := by
  obtain ⟨given, houtbox, hgiven⟩ := h
  rw [houtbox, List.drop_left] at hr
  exact hgiven r hr

/-! ### The commands -/

/-- An accepted message is answered OK, or not yet (R56, R68). -/
theorem State.acceptMessage_answersOk (s : State) (ch : ChanIndex) (e : Entry) : AnswersOk s (s.acceptMessage ch e) := by
  dsimp only [State.acceptMessage]
  split
  · exact .of_outbox_eq rfl
  · exact .respond_once rfl okResponse_statusOk

theorem State.guarded_raises_or_answersOk {s t effect : State} {checks : List (Option Status)}
    (h : s.guarded checks effect = .next t) (heffect : AnswersOk s effect) :
    (∃ e, t = s.raise e) ∨ AnswersOk s t := by
  rcases State.guarded_next h with ⟨e, _, rfl⟩ | ⟨_, rfl⟩
  · exact .inl ⟨e, rfl⟩
  · exact .inr heffect

/-- Past its checks no instruction answers with an error (R88, R89). -/
theorem exec_raises_or_answersOk {i : Instr} {s t : State} (h : exec i s = .next t) :
    (∃ e, t = s.raise e) ∨ AnswersOk s t := by
  cases i with
  | addData ch seq code payload =>
    refine State.guarded_raises_or_answersOk h ?_
    split
    · exact s.acceptMessage_answersOk ch _
    · exact .respond_once rfl okResponse_statusOk
  | popFront ch =>
    refine State.guarded_raises_or_answersOk h ?_
    split
    · exact .respond_once rfl (entryResponse_statusOk _)
    · exact .respond_once rfl (entryResponse_statusOk _)
  | peek ch pos => exact State.guarded_raises_or_answersOk h (.respond_once rfl (entryResponse_statusOk _))
  | prune ch target => exact State.guarded_raises_or_answersOk h (.respond_once rfl (bitResponse_statusOk _))
  | setMaxSize ch n => exact State.guarded_raises_or_answersOk h (.respond_once rfl okResponse_statusOk)
  | setMaxSizeAll n => exact State.guarded_raises_or_answersOk h (.respond_once rfl okResponse_statusOk)
  | setEnabled ch v => exact State.guarded_raises_or_answersOk h (.respond_once rfl okResponse_statusOk)
  | setEnabledAll v => exact State.guarded_raises_or_answersOk h (.respond_once rfl okResponse_statusOk)
  | setCpiSpan n => exact State.guarded_raises_or_answersOk h (.respond_once rfl okResponse_statusOk)
  | readChStatus ch => exact State.guarded_raises_or_answersOk h (.respond_once rfl (dataResponse_statusOk _))
  | readGlobal => exact State.guarded_raises_or_answersOk h (.respond_once rfl (dataResponse_statusOk _))
  | done v =>
    exact State.guarded_raises_or_answersOk h
      ((AnswersOk.respond_once rfl okResponse_statusOk).respond (dispatchedResponse_statusOk _ v))

/-- The same of every transaction: one that is no instruction is answered with an error (R43, R44, R89). -/
theorem serve_raises_or_answersOk {tr : Transaction} {s t : State} (h : serve tr s = .next t) :
    (∃ e, t = s.raise e) ∨ AnswersOk s t := by
  unfold serve at h
  split at h
  case h_1 i _ => exact exec_raises_or_answersOk h
  case h_2 =>
    injection h with h
    exact .inl ⟨.errOpcode, h.symm⟩
  case h_3 op _ => exact State.guarded_raises_or_answersOk h (.of_outbox_eq rfl)
  case h_4 => cases h

/-! ### The step -/

/-- A step that takes a command serves it on its port (R31, R32). -/
theorem serve_of_step_command {s t : State} {k : Picked} {p : Port} {tr : Transaction} (hk : s.nextEvent = some k)
    (hevent : k.event = .command p tr) (h : step s = .next t) : serve tr (s.atPort p k) = .next t := by
  unfold step at h
  split at h
  · simpa only [advance, hk, hevent] using h
  · cases h

/-- Settles O9: a non-zero STATUS is not among answers that are all OK, so the step ended in `State.raise`, whose one
response is the only one given. -/
theorem errorsChangeNoState : Obligations.ErrorsChangeNoState := by
  unfold Obligations.ErrorsChangeNoState
  intro s t k p tr hk hevent hstep r hr hstatus
  rcases serve_raises_or_answersOk (serve_of_step_command hk hevent hstep) with ⟨e, rfl⟩ | hok
  · have hgiven : r = ⟨p, errorResponse e⟩ := by simpa using hr
    subst hgiven
    exact ⟨rfl, rfl, errorResponse_rw_lt e, rfl, rfl⟩
  · exact absurd (hok.status_eq_zero hr) hstatus

end Sys2Proof.Machine
end

section
/-! The state after reset (70_reset_and_hazards.md R97): the per-channel table read through `Memory.chan`, and the span of
a CPI build. -/

namespace Sys2Proof.Machine

theorem Memory.chan_replicate {n i : Nat} (c : Channel) (h : i < n) : Memory.chan (List.replicate n c) i = c := by
  unfold Memory.chan
  rw [List.getElem?_replicate_of_lt h, Option.getD_some]

theorem initialSpan_of_cpi {c : Config} (h : c.mode = .cpi) : initialSpan c = c.defaultCpiSpan := by
  unfold initialSpan
  rw [h]

/-- Settles O53: the storage is one `Channel.initial` per channel and the span is `initialSpan`; the other items are the
rules of `State.resetWith` and `Arch.initial`. -/
theorem resetLeavesTheStatedValues : Obligations.ResetLeavesTheStatedValues := by
  unfold Obligations.ResetLeavesTheStatedValues
  intro c
  have hlength : (Arch.initial c).chans.length = c.nChannels := by simp
  have hchan : ∀ i, i < c.nChannels → Memory.chan (Arch.initial c).chans i = Channel.initial c :=
    fun i hi => Memory.chan_replicate (Channel.initial c) hi
  exact ⟨State.resetWith_cfg c, hlength, hchan, initialSpan_of_cpi, Arch.initial_phase c, Arch.initial_dkind c,
    State.resetWith_inProgress c, State.resetWith_inbox c⟩

end Sys2Proof.Machine
end

section
/-! The round trip of the encoding (30_encoding.md sections 2 to 5). A command word is determined by its fields; the frame of
a transaction is determined by its opcode; so decoding and encoding are read off field by field. -/

namespace Sys2Proof

/-! ### The decoder on a selected opcode -/

/-- What the decoder does with a framed transaction of a selected opcode: only the format is left to check (R44 to R46). -/
theorem decode_of_selected {t : Transaction} {op : Opcode} (hop : Opcode.ofField (opField t.cw) = some op)
    (hframed : t.framed = true) :
    decode t = if formatOk op t.cw then .ok (op.assemble t) else .error (.format op) := by
  simp only [decode, hframed, if_true, hop]

theorem decode_of_not_framed {t : Transaction} (h : t.framed = false) : decode t = .error .misframed := by
  simp [decode, h]

/-- What it takes to decode: the frame, a selected opcode and the format; the instruction is then assembled (R39, R42). -/
theorem decode_eq_ok_iff {t : Transaction} {i : Instr} :
    decode t = .ok i ↔ t.framed = true ∧ ∃ op, Opcode.ofField (opField t.cw) = some op ∧
      formatOk op t.cw = true ∧ i = op.assemble t := by
  cases hframed : t.framed with
  | false => simp [decode_of_not_framed hframed]
  | true =>
    cases hop : Opcode.ofField (opField t.cw) with
    | none => simp [decode_of_reserved hop hframed]
    | some op =>
      rw [decode_of_selected hop hframed]
      simp only [true_and, Option.some.injEq, exists_eq_left']
      cases hformat : formatOk op t.cw with
      | false => simp
      | true => simpa using eq_comm

theorem operandWordsOf_of_selected {cw : Word} {op : Opcode} (h : Opcode.ofField (opField cw) = some op) :
    operandWordsOf cw = op.operandWords := by
  simp only [operandWordsOf, h]

theorem takesPayloadOf_of_selected {cw : Word} {op : Opcode} (h : Opcode.ofField (opField cw) = some op) :
    takesPayloadOf cw = op.takesPayload := by
  simp only [takesPayloadOf, h]

/-- The frame of a transaction of a selected opcode (R39). -/
theorem Transaction.framed_iff_of_selected {t : Transaction} {op : Opcode}
    (h : Opcode.ofField (opField t.cw) = some op) :
    t.framed = true ↔ t.operands.length = op.operandWords ∧ t.payload.isSome = op.takesPayload := by
  simp [Transaction.framed, operandWordsOf_of_selected h, takesPayloadOf_of_selected h]

/-! ### Decoding an encoding -/

/-- Every encoding has the form that `Laws.CommandForm` states per instruction. -/
theorem encode_commandForm (i : Instr) : Laws.CommandForm.Statement i := by
  cases i with
  | addData ch seq code payload => exact Laws.CommandForm.addData ch seq code payload
  | setEnabled ch v => exact Laws.CommandForm.setEnabled ch v
  | setEnabledAll v => exact Laws.CommandForm.setEnabledAll v
  | setMaxSize ch n => exact Laws.CommandForm.setMaxSize ch n
  | setMaxSizeAll n => exact Laws.CommandForm.setMaxSizeAll n
  | setCpiSpan n => exact Laws.CommandForm.setCpiSpan n
  | popFront ch => exact Laws.CommandForm.popFront ch
  | peek ch pos => exact Laws.CommandForm.peek ch pos
  | prune ch target => exact Laws.CommandForm.prune ch target
  | readChStatus ch => exact Laws.CommandForm.readChStatus ch
  | readGlobal => exact Laws.CommandForm.readGlobal
  | done v => exact Laws.CommandForm.done v

theorem ofField_opField_encode (i : Instr) : Opcode.ofField (opField (encode i).cw) = some i.opcode := by
  obtain ⟨hop, -, -, -⟩ := encode_commandForm i
  rw [hop, ofField_field]

theorem encode_framed (i : Instr) : (encode i).framed = true := by
  obtain ⟨-, -, hoperands, hpayload⟩ := encode_commandForm i
  exact (Transaction.framed_iff_of_selected (ofField_opField_encode i)).mpr ⟨hoperands, hpayload⟩

/-- A command word that the encoder writes has no format error where G and V are allowed and CH is 0 wherever no channel
is taken (R44 to R46). -/
theorem formatOk_commandWord (op : Opcode) (g v : Bool) (ch : ChanIndex) :
    formatOk op (commandWord op g v ch) =
      ((!g || (op.hasGlobalForm && decide (ch = 0))) && (!op.withoutChannel || decide (ch = 0)) &&
        (!v || op.hasValueBit)) := by
  simp [formatOk]

/-- The encoder sets G, V and CH only where the opcode allows it (R44 to R46). -/
theorem encode_formatOk (i : Instr) : formatOk i.opcode (encode i).cw = true := by
  cases i with
  | addData ch seq code payload => exact formatOk_commandWord .addData false false ch
  | setEnabled ch v => exact (formatOk_commandWord .setEnabled false v ch).trans (by cases v <;> rfl)
  | setEnabledAll v => exact (formatOk_commandWord .setEnabled true v 0).trans (by cases v <;> rfl)
  | setMaxSize ch n => exact formatOk_commandWord .setMaxSize false false ch
  | setMaxSizeAll n => exact formatOk_commandWord .setMaxSize true false 0
  | setCpiSpan n => exact formatOk_commandWord .setCpiSpan false false 0
  | popFront ch => exact formatOk_commandWord .popFront false false ch
  | peek ch pos => exact formatOk_commandWord .peek false false ch
  | prune ch target => exact formatOk_commandWord .prune false false ch
  | readChStatus ch => exact formatOk_commandWord .readChStatus false false ch
  | readGlobal => exact formatOk_commandWord .readGlobal false false 0
  | done v => exact (formatOk_commandWord .done false v 0).trans (by cases v <;> rfl)

/-- Reading the fields and the words of an encoding back gives the instruction (R42, R47). -/
theorem assemble_encode (i : Instr) : i.opcode.assemble (encode i) = i := by
  cases i <;> simp [Instr.opcode, encode, Opcode.assemble, Transaction.operand]

/-- Settles O1: the encoding is framed, selects the opcode of the instruction and has no format error, so the decoder
assembles it. -/
theorem decodeOfEncodeIsIdentity : Obligations.DecodeOfEncodeIsIdentity := by
  unfold Obligations.DecodeOfEncodeIsIdentity
  intro i
  rw [decode_eq_ok_iff]
  exact ⟨encode_framed i, i.opcode, ofField_opField_encode i, encode_formatOk i, (assemble_encode i).symm⟩

/-! ### Encoding a decoded transaction -/

/-- An OP value selects one opcode, whose OP value it is (R42). -/
theorem Opcode.field_of_ofField {f : BitVec 4} {op : Opcode} (h : Opcode.ofField f = some op) : op.field = f := by
  unfold Opcode.ofField at h
  apply BitVec.eq_of_toNat_eq
  split at h
  case h_11 => cases h
  all_goals
    next hf =>
    cases h
    rw [hf]
    rfl

/-- A command word is what its fields say: no bit of it is outside OP, G, V, RSV and CH (R38). -/
theorem commandWord_fields {cw : Word} {op : Opcode} (hop : Opcode.ofField (opField cw) = some op)
    (hrsv : rsvField cw = 0) : commandWord op (gField cw) (vField cw) (chField cw) = cw := by
  apply BitVec.eq_of_getLsbD_eq
  intro i hi
  rw [commandWord_getLsbD _ _ _ _ _ hi]
  split_ifs with hch hv hg hopbits
  · simp [chField, hch]
  · rw [hv, vField]
  · rw [hg, gField]
  · rw [Opcode.field_of_ofField hop, opField, BitVec.getLsbD_extractLsb']
    simp [show i - 28 < 4 by omega, show 28 + (i - 28) = i by omega]
  · have hbit : (rsvField cw).getLsbD (i - 16) = false := by simp [hrsv]
    rw [rsvField, BitVec.getLsbD_extractLsb'] at hbit
    simpa [show i - 16 < 10 by omega, show 16 + (i - 16) = i by omega] using hbit.symm

/-- What the format check allows in a command word (R44 to R46). -/
theorem formatOk_iff (op : Opcode) (cw : Word) :
    formatOk op cw = true ↔ rsvField cw = 0 ∧ (gField cw = true → op.hasGlobalForm = true ∧ chField cw = 0) ∧
      (op.withoutChannel = true → chField cw = 0) ∧ (vField cw = true → op.hasValueBit = true) := by
  simp only [formatOk, Bool.and_eq_true, Bool.or_eq_true, Bool.not_eq_true', decide_eq_true_eq, ← Bool.not_eq_true,
    ← imp_iff_not_or, and_assoc]

/-- The fields of the command word that the instruction keeps; those it drops are zero by the format check. -/
theorem encode_assemble_cw {op : Opcode} {t : Transaction} (hformat : formatOk op t.cw = true) :
    (encode (op.assemble t)).cw = commandWord op (gField t.cw) (vField t.cw) (chField t.cw) := by
  obtain ⟨-, hg, hch, hv⟩ := (formatOk_iff op t.cw).mp hformat
  have hg' : op.hasGlobalForm = false → gField t.cw = false := fun h => by simpa [h] using hg
  have hv' : op.hasValueBit = false → vField t.cw = false := fun h => by simpa [h] using hv
  cases op with
  | setEnabled =>
    cases hgf : gField t.cw with
    | false => simp [Opcode.assemble, hgf, encode]
    | true => simp [Opcode.assemble, hgf, encode, (hg hgf).2]
  | setMaxSize =>
    cases hgf : gField t.cw with
    | false => simp [Opcode.assemble, hgf, encode, hv' rfl]
    | true => simp [Opcode.assemble, hgf, encode, hv' rfl, (hg hgf).2]
  | setCpiSpan => simp [Opcode.assemble, encode, hg' rfl, hv' rfl, hch rfl]
  | readGlobal => simp [Opcode.assemble, encode, hg' rfl, hv' rfl, hch rfl]
  | done => simp [Opcode.assemble, encode, hg' rfl, hch rfl]
  | addData => simp [Opcode.assemble, encode, hg' rfl, hv' rfl]
  | popFront => simp [Opcode.assemble, encode, hg' rfl, hv' rfl]
  | peek => simp [Opcode.assemble, encode, hg' rfl, hv' rfl]
  | prune => simp [Opcode.assemble, encode, hg' rfl, hv' rfl]
  | readChStatus => simp [Opcode.assemble, encode, hg' rfl, hv' rfl]

/-- The assembled instruction keeps every operand word that its opcode takes. -/
theorem encode_assemble_operands (op : Opcode) (t : Transaction) :
    (encode (op.assemble t)).operands = (List.range op.operandWords).map t.operand := by
  cases op with
  | setEnabled => cases hgf : gField t.cw <;> simp [Opcode.assemble, hgf, encode, Opcode.operandWords]
  | setMaxSize => cases hgf : gField t.cw <;> simp [Opcode.assemble, hgf, encode, Opcode.operandWords]
  | _ => rfl

theorem encode_assemble_payload (op : Opcode) (t : Transaction) :
    (encode (op.assemble t)).payload = if op.takesPayload then some (t.payload.getD []) else none := by
  cases op with
  | setEnabled => cases hgf : gField t.cw <;> simp [Opcode.assemble, hgf, encode, Opcode.takesPayload]
  | setMaxSize => cases hgf : gField t.cw <;> simp [Opcode.assemble, hgf, encode, Opcode.takesPayload]
  | _ => rfl

theorem Transaction.operands_eq_map (t : Transaction) :
    (List.range t.operands.length).map t.operand = t.operands := by
  apply List.ext_getElem
  · simp
  · intro k hk _
    simp [Transaction.operand, show k < t.operands.length by simpa using hk]

/-- Encoding what a framed transaction without format error is assembled to gives it back, part by part. -/
theorem encode_assemble {op : Opcode} {t : Transaction} (hop : Opcode.ofField (opField t.cw) = some op)
    (hframed : t.framed = true) (hformat : formatOk op t.cw = true) : encode (op.assemble t) = t := by
  obtain ⟨hoperands, hpayload⟩ := (Transaction.framed_iff_of_selected hop).mp hframed
  obtain ⟨hrsv, -⟩ := (formatOk_iff op t.cw).mp hformat
  have hcw : (encode (op.assemble t)).cw = t.cw :=
    (encode_assemble_cw hformat).trans (commandWord_fields hop hrsv)
  have hwords : (encode (op.assemble t)).operands = t.operands := by
    rw [encode_assemble_operands, ← hoperands, Transaction.operands_eq_map]
  have hdata : (encode (op.assemble t)).payload = t.payload := by
    rw [encode_assemble_payload, ← hpayload]
    cases t.payload <;> rfl
  calc encode (op.assemble t)
      = ⟨(encode (op.assemble t)).cw, (encode (op.assemble t)).operands, (encode (op.assemble t)).payload⟩ := rfl
    _ = t := by rw [hcw, hwords, hdata]

/-- Settles O2: what decodes is framed, of a selected opcode and without format error, so no part of it is dropped. -/
theorem encodeOfDecodeIsIdentity : Obligations.EncodeOfDecodeIsIdentity := by
  unfold Obligations.EncodeOfDecodeIsIdentity
  intro t i h
  obtain ⟨hframed, op, hop, hformat, rfl⟩ := decode_eq_ok_iff.mp h
  exact encode_assemble hop hframed hformat

/-- Settles O3: each word is what the encoder writes for its instruction. -/
theorem wordsOfTheTableDecode : Obligations.WordsOfTheTableDecode := by
  unfold Obligations.WordsOfTheTableDecode
  exact ⟨decodeOfEncodeIsIdentity (.addData 2 9 0xA []), decodeOfEncodeIsIdentity (.setEnabled 2 true),
    decodeOfEncodeIsIdentity (.setMaxSizeAll 3), decodeOfEncodeIsIdentity (.setCpiSpan 4),
    decodeOfEncodeIsIdentity (.readChStatus 1), decodeOfEncodeIsIdentity (.done true)⟩

/-! ### The format of a command word as a number -/

theorem rsvField_eq_zero_iff (cw : Word) : rsvField cw = 0 ↔ cw.toNat / 2 ^ 16 % 2 ^ 10 = 0 := by
  rw [← BitVec.toNat_inj, rsvField, BitVec.extractLsb'_toNat, Nat.shiftRight_eq_div_pow]
  simp

theorem chField_eq_zero_iff (cw : Word) : chField cw = 0 ↔ cw.toNat % 2 ^ 16 = 0 := by
  rw [← BitVec.toNat_inj, chField, BitVec.extractLsb'_toNat, Nat.shiftRight_eq_div_pow]
  simp

theorem gField_iff (cw : Word) : gField cw = true ↔ cw.toNat / 2 ^ 27 % 2 = 1 := by
  simp [gField, BitVec.getLsbD, Nat.testBit_eq_decide_div_mod_eq]

theorem vField_iff (cw : Word) : vField cw = true ↔ cw.toNat / 2 ^ 26 % 2 = 1 := by
  simp [vField, BitVec.getLsbD, Nat.testBit_eq_decide_div_mod_eq]

theorem Opcode.assemble_opcode (op : Opcode) (t : Transaction) : (op.assemble t).opcode = op := by
  cases op with
  | setEnabled => cases hgf : gField t.cw <;> simp [Opcode.assemble, hgf, Instr.opcode]
  | setMaxSize => cases hgf : gField t.cw <;> simp [Opcode.assemble, hgf, Instr.opcode]
  | _ => rfl

end Sys2Proof

namespace Sys2Proof.Machine

/-- The decoder's format check is the one that R44 to R46 state on the command word as a number. -/
theorem formatOk_iff_not_formatError (op : Opcode) (cw : Word) : formatOk op cw = true ↔ ¬ FormatError op cw := by
  rw [formatOk_iff, gField_iff, vField_iff, rsvField_eq_zero_iff, chField_eq_zero_iff]
  unfold FormatError
  simp only [Opcode.hasGlobalForm, Opcode.withoutChannel, Opcode.hasValueBit, Bool.or_eq_true, decide_eq_true_eq]
  tauto

/-- Settles O5: on a framed transaction of a selected opcode the decoder has only the format left to check. -/
theorem formatIsCheckedAsStated : Obligations.FormatIsCheckedAsStated := by
  unfold Obligations.FormatIsCheckedAsStated
  intro t op hframed hop
  rw [← not_iff_not (b := FormatError op t.cw), ← formatOk_iff_not_formatError, decode_of_selected hop hframed]
  cases hformat : formatOk op t.cw with
  | false => simp
  | true => simp [Opcode.assemble_opcode]

/-- Settles O51: without the words its OP takes a transaction is rejected as misframed, which serving it turns into the
fault. -/
theorem misframedTransactionFaults : Obligations.MisframedTransactionFaults := by
  unfold Obligations.MisframedTransactionFaults
  intro t s h
  simp only [serve, decode_of_not_framed h]

end Sys2Proof.Machine
end

section
/-! The checks of a command in the order of 60_exceptions.md R89: every instruction is its port check, then the checks of its
operands, then its effect. What a failed check answers is then said once for all instructions. -/

namespace Sys2Proof.Machine

/-! ### The permission table -/

/-- The executable permission table is the one written out from R90. -/
theorem permitted_iff_mayIssue (op : Opcode) (p : Port) (phase : Phase) :
    permitted op p phase = true ↔ MayIssue op p phase := by
  cases p with
  | producer => cases op <;> simp [permitted, MayIssue]
  | status => cases op <;> simp [permitted, MayIssue]
  | consumer => cases op <;> simp [permitted, MayIssue]

theorem checkPort_eq_none_of_mayIssue {s : State} {op : Opcode} (h : MayIssue op s.cur s.arch.phase) :
    checkPort s op = none :=
  checkPort_of_permitted ((permitted_iff_mayIssue _ _ _).mpr h)

theorem checkPort_of_not_mayIssue {s : State} {op : Opcode} (h : ¬ MayIssue op s.cur s.arch.phase) :
    checkPort s op = some .errPort :=
  checkPort_of_not_permitted (Bool.eq_false_iff.mpr ((permitted_iff_mayIssue _ _ _).not.mpr h))

/-! ### The error answers -/

theorem errorResponse_errPort : errorResponse .errPort = { rw := 4 } := by decide
theorem errorResponse_errFormat : errorResponse .errFormat = { rw := 6 } := by decide
theorem errorResponse_errMode : errorResponse .errMode = { rw := 5 } := by decide
theorem errorResponse_errChannel : errorResponse .errChannel = { rw := 1 } := by decide
theorem errorResponse_errRange : errorResponse .errRange = { rw := 2 } := by decide

/-- A guarded command whose first error is e only answers it (R88). -/
theorem State.guarded_answered {s : State} {checks : List (Option Status)} {effect : State} {e : Status} {r : Response}
    (h : firstError checks = some e) (hr : errorResponse e = r) : s.guarded checks effect = .next (Answered s r) := by
  rw [State.guarded_fail h, State.raise_eq_answered, hr]

/-! ### A format error -/

theorem serve_of_format {t : Transaction} {op : Opcode} {s : State} (h : decode t = .error (.format op)) :
    serve t s = s.guarded [checkPort s op, some .errFormat] s := by
  simp only [serve, h]

/-- Settles O6: the decoder reports the format error, and serving it checks the port before. -/
theorem formatErrorIsAnswered : Obligations.FormatErrorIsAnswered := by
  unfold Obligations.FormatErrorIsAnswered
  intro t op s hframed hop hformat
  obtain ⟨-, hreport⟩ := formatIsCheckedAsStated t op hframed hop
  rw [serve_of_format (hreport.mpr hformat)]
  constructor
  · intro hmay
    exact State.guarded_answered (by rw [checkPort_eq_none_of_mayIssue hmay]; rfl) errorResponse_errFormat
  · intro hmay
    exact State.guarded_answered (by rw [checkPort_of_not_mayIssue hmay]; rfl) errorResponse_errPort

/-! ### The checks of an instruction -/

/-- The checks (4) to (6) of R89 that an instruction makes behind the port check, in their order. -/
def operandChecks (s : State) : Instr → List (Option Status)
  | .addData ch _ _ _ => [checkChannel s ch]
  | .setEnabled ch _ => [checkChannel s ch]
  | .setEnabledAll _ => []
  | .setMaxSize ch n => [checkChannel s ch, checkSize s n]
  | .setMaxSizeAll n => [checkSize s n]
  | .setCpiSpan n => [checkMode s, checkSpan n]
  | .popFront ch => [checkChannel s ch]
  | .peek ch _ => [checkChannel s ch]
  | .prune ch _ => [checkChannel s ch]
  | .readChStatus ch => [checkChannel s ch]
  | .readGlobal => []
  | .done _ => []

/-- Every instruction is guarded by its port check and then by its operand checks (R89). -/
theorem exec_eq_guarded (i : Instr) (s : State) :
    ∃ effect, exec i s = s.guarded (checkPort s i.opcode :: operandChecks s i) effect := by
  cases i <;> exact ⟨_, rfl⟩

/-- Settles O7: the port check stands before the operand checks of every instruction. -/
theorem portErrorComesFirst : Obligations.PortErrorComesFirst := by
  unfold Obligations.PortErrorComesFirst
  intro i s hmay
  obtain ⟨effect, hexec⟩ := exec_eq_guarded i s
  rw [hexec]
  exact State.guarded_answered (by rw [checkPort_of_not_mayIssue hmay]; rfl) errorResponse_errPort

/-- What a permitted instruction answers where an operand check fails. -/
theorem exec_answers_first_error {i : Instr} {s : State} {e : Status} {r : Response}
    (hmay : MayIssue i.opcode s.cur s.arch.phase) (he : firstError (operandChecks s i) = some e)
    (hr : errorResponse e = r) : exec i s = .next (Answered s r) := by
  obtain ⟨effect, hexec⟩ := exec_eq_guarded i s
  rw [hexec]
  exact State.guarded_answered (by rw [checkPort_eq_none_of_mayIssue hmay, firstError_none, he]) hr

theorem checkChannel_of_outside {s : State} {ch : ChanIndex} (h : s.cfg.nChannels ≤ ch.toNat) :
    checkChannel s ch = some .errChannel := by
  simp [checkChannel, channelLegal, h]

/-- The channel is the first operand check of every instruction that names one. -/
theorem operandChecks_of_channel {i : Instr} {ch : ChanIndex} (hch : channelOf i = some ch) (s : State) :
    ∃ rest, operandChecks s i = checkChannel s ch :: rest := by
  cases i <;> cases hch <;> exact ⟨_, rfl⟩

theorem firstError_of_outside_channel {i : Instr} {s : State} {ch : ChanIndex} (hch : channelOf i = some ch)
    (hout : s.cfg.nChannels ≤ ch.toNat) : firstError (operandChecks s i) = some .errChannel := by
  obtain ⟨rest, hchecks⟩ := operandChecks_of_channel hch s
  rw [hchecks, checkChannel_of_outside hout, firstError_some]

/-- Past the mode and the channel only a bound or a span can be illegal, and that is ErrRANGE. -/
theorem firstError_of_not_wellFormed {i : Instr} {s : State} (hmode : i.opcode = .setCpiSpan → s.cfg.mode = .cpi)
    (hch : ∀ ch, channelOf i = some ch → ch.toNat < s.cfg.nChannels) (hwf : i.wellFormed s.cfg = false) :
    firstError (operandChecks s i) = some .errRange := by
  have hlegal : ∀ ch, channelOf i = some ch → channelLegal s.cfg ch = true := fun ch h => decide_eq_true (hch ch h)
  have habsurd : ∀ ch, channelOf i = some ch → i.wellFormed s.cfg = channelLegal s.cfg ch →
      firstError (operandChecks s i) = some .errRange := fun ch h heq => by simp [heq, hlegal ch h] at hwf
  cases i with
  | setMaxSize ch n =>
    have hsize : sizeLegal s.cfg n = false := by simpa [Instr.wellFormed, hlegal ch rfl] using hwf
    simp [operandChecks, checkChannel_of_legal (hch ch rfl), checkSize, hsize]
  | setMaxSizeAll n =>
    have hsize : sizeLegal s.cfg n = false := hwf
    simp [operandChecks, checkSize, hsize]
  | setCpiSpan n =>
    have hspan : spanLegal n = false := by simpa [Instr.wellFormed, hmode rfl] using hwf
    simp [operandChecks, checkMode_eq_none.mpr (hmode rfl), checkSpan, hspan]
  | addData ch seq code payload => exact habsurd ch rfl rfl
  | setEnabled ch v => exact habsurd ch rfl rfl
  | popFront ch => exact habsurd ch rfl rfl
  | peek ch pos => exact habsurd ch rfl rfl
  | prune ch target => exact habsurd ch rfl rfl
  | readChStatus ch => exact habsurd ch rfl rfl
  | setEnabledAll v => cases hwf
  | readGlobal => cases hwf
  | done v => cases hwf

/-- Settles O8: the first operand check that fails decides the answer. -/
theorem operandErrorsInOrder : Obligations.OperandErrorsInOrder := by
  unfold Obligations.OperandErrorsInOrder
  intro i s hmay
  refine ⟨fun hop hmode => ?_, fun ch hch hout => ?_, fun hmode hch hwf => ?_⟩
  · have hfirst : firstError (operandChecks s i) = some .errMode := by
      cases i <;> cases hop
      simp [operandChecks, checkMode, hmode]
    exact exec_answers_first_error hmay hfirst errorResponse_errMode
  · exact exec_answers_first_error hmay (firstError_of_outside_channel hch hout) errorResponse_errChannel
  · exact exec_answers_first_error hmay (firstError_of_not_wellFormed hmode hch hwf) errorResponse_errRange

end Sys2Proof.Machine
end

section
/-! The commands of the channel buffer (40_buffer.md section 3). A command that passes its checks is its effect; an effect
that only replaces the storage keeps every register and gives one response; what it does to its channel is the rule of the
primitive (section 2). -/

namespace Sys2Proof.Machine

/-! ### Commands whose checks pass -/

section
variable {s : State} {op : Opcode}

theorem mayIssue_of_producer (hcur : s.cur = .producer) (hop : op ≠ .done) : MayIssue op s.cur s.arch.phase :=
  .inl ⟨hcur, hop⟩

/-- The SET_* are the commands of ports P and S (R90). -/
theorem mayIssue_of_configPort (hcur : s.cur = .producer ∨ s.cur = .status)
    (hop : op = .setEnabled ∨ op = .setMaxSize ∨ op = .setCpiSpan) : MayIssue op s.cur s.arch.phase := by
  rcases hcur with hcur | hcur
  · exact mayIssue_of_producer hcur (by rcases hop with rfl | rfl | rfl <;> decide)
  · exact .inr (.inl ⟨hcur, by tauto⟩)

/-- POP_FRONT and PEEK are commands of port P, and of port C in a dispatch (R90). -/
theorem mayIssue_of_readPort (hcur : s.cur = .producer ∨ (s.cur = .consumer ∧ s.arch.phase = .dispatch))
    (hop : op = .popFront ∨ op = .peek) : MayIssue op s.cur s.arch.phase := by
  rcases hcur with hcur | ⟨hcur, hphase⟩
  · exact mayIssue_of_producer hcur (by rcases hop with rfl | rfl <;> decide)
  · exact .inr (.inr ⟨hcur, hphase, by tauto⟩)

/-- A permitted command with no further check is its effect. -/
theorem State.guarded_of_permitted {effect : State} (hmay : MayIssue op s.cur s.arch.phase) :
    s.guarded [checkPort s op] effect = .next effect :=
  State.guarded_pass (by simp [checkPort_eq_none_of_mayIssue hmay])

/-- A permitted command on a channel of the build is its effect. -/
theorem State.guarded_of_channel {effect : State} {ch : ChanIndex} (hmay : MayIssue op s.cur s.arch.phase)
    (hch : ch.toNat < s.cfg.nChannels) : s.guarded [checkPort s op, checkChannel s ch] effect = .next effect :=
  State.guarded_pass (by simp [checkPort_eq_none_of_mayIssue hmay, checkChannel_of_legal hch])

end

theorem checkSize_of_legal {s : State} {n : Word} (hn : n ≠ 0) (hlimit : n ≤ s.cfg.maxSizeLimit) :
    checkSize s n = none :=
  checkSize_eq_none.mpr ((Bool.and_eq_true _ _).mpr ⟨decide_eq_true hn, decide_eq_true hlimit⟩)

/-! ### The answers without an error -/

theorem okResponse_eq : okResponse = { rw := 0 } := by decide

theorem bitResponse_eq (rb : Bool) : bitResponse rb = { rw := if rb then 0x80 else 0 } := by
  cases rb <;> decide

theorem entryResponse_none : entryResponse none = { rw := 0, data := [0, 0] } := by decide

theorem entryResponse_some (e : Entry) :
    entryResponse (some e) = { rw := 0x80, data := [e.seq, e.code], payload := some e.payload } := by
  have hrw : responseWord .ok 0 false true = 0x80 := by decide
  rw [entryResponse, hrw]

theorem State.respond_eq_answered {s : State} {r r' : Response} (h : r = r') : s.respond s.cur r = Answered s r' :=
  h ▸ rfl

/-! ### Reading channels of a changed storage -/

theorem Memory.chan_update_self {m : Memory} {i : Nat} (f : Channel → Channel) (h : i < m.length) :
    Memory.chan (Memory.update m i f) i = f (Memory.chan m i) := by
  rw [Memory.chan_update, if_pos ⟨rfl, h⟩]

theorem Memory.chan_update_ne {m : Memory} {i j : Nat} (f : Channel → Channel) (h : j ≠ i) :
    Memory.chan (Memory.update m i f) j = Memory.chan m j := by
  rw [Memory.chan_update, if_neg fun hij => h hij.1.symm]

theorem Memory.chan_of_length_le {m : Memory} {i : Nat} (h : m.length ≤ i) : Memory.chan m i = Channel.absent := by
  simp [Memory.chan, h]

/-- A change that leaves the absent channel alone is seen at every index. -/
theorem Memory.chan_update_self_of_absent {m : Memory} {i : Nat} {f : Channel → Channel}
    (hf : f Channel.absent = Channel.absent) : Memory.chan (Memory.update m i f) i = f (Memory.chan m i) := by
  by_cases hi : i < m.length
  · exact Memory.chan_update_self f hi
  · rw [Memory.chan_update, if_neg fun h => hi h.2, Memory.chan_of_length_le (Nat.le_of_not_lt hi), hf]

theorem Memory.chan_map {m : Memory} {j : Nat} (f : Channel → Channel) (h : j < m.length) :
    Memory.chan (m.map f) j = f (Memory.chan m j) := by
  simp [Memory.chan, h]

/-- A map that leaves the absent channel alone is seen at every index. -/
theorem Memory.chan_map_of_absent {f : Channel → Channel} (m : Memory) (i : Nat)
    (hf : f Channel.absent = Channel.absent) : Memory.chan (m.map f) i = f (Memory.chan m i) := by
  by_cases hi : i < m.length
  · exact Memory.chan_map f hi
  · have hle := Nat.le_of_not_lt hi
    rw [Memory.chan_of_length_le hle, Memory.chan_of_length_le (by simpa using hle), hf]

theorem Memory.update_eq_self {m : Memory} {i : Nat} {f : Channel → Channel}
    (h : f (Memory.chan m i) = Memory.chan m i) : Memory.update m i f = m := by
  apply List.ext_getElem?
  intro j
  rw [Memory.update, List.getElem?_modify]
  split
  · next hij =>
    subst hij
    cases hm : m[i]? with
    | none => rfl
    | some c => simpa [Memory.chan, hm] using h
  · simp

theorem Memory.lt_length_of_enabled {m : Memory} {i : Nat} (h : (Memory.chan m i).enabled = true) : i < m.length := by
  by_contra hi
  rw [Memory.chan_of_length_le (Nat.le_of_not_lt hi)] at h
  cases h

theorem Memory.lt_length_of_queue {m : Memory} {i : Nat} (h : (Memory.chan m i).queue ≠ []) : i < m.length := by
  by_contra hi
  rw [Memory.chan_of_length_le (Nat.le_of_not_lt hi)] at h
  exact h rfl

/-! ### A command that replaces the storage and answers -/

/-- The state after a command that replaces the storage by m and answers r. -/
def State.stored (s : State) (m : Memory) (r : Response) : State :=
  (s.commit (s.arch.withChans m)).respond s.cur r

section
variable (s : State) (m : Memory) (r : Response)

@[simp] theorem State.stored_arch : (s.stored m r).arch = s.arch.withChans m := rfl
@[simp] theorem State.stored_boundaries : (s.stored m r).boundaries = boundariesAfter s := rfl
@[simp] theorem State.stored_outbox : (s.stored m r).outbox = s.outbox ++ [⟨s.cur, r⟩] := rfl

theorem State.stored_sameRegisters : SameRegisters s (s.stored m r) := ⟨rfl, rfl, rfl, rfl, rfl, rfl, rfl, rfl⟩

theorem State.stored_update_sameChannelsBut (i : Nat) (f : Channel → Channel) :
    SameChannelsBut i s (s.stored (Memory.update s.arch.chans i f) r) :=
  ⟨Memory.length_update _ _ _, fun _ hj => Memory.chan_update_ne f hj⟩

theorem State.stored_update_chan {ch : ChanIndex} (f : Channel → Channel) (h : ch.toNat < s.arch.chans.length) :
    (s.stored (Memory.update s.arch.chans ch.toNat f) r).chan ch = f (s.chan ch) :=
  Memory.chan_update_self f h

end

/-! ### ADD_DATA -/

/-- Settles O15: the message is appended and the queue trimmed, and Trim keeps the newest. -/
theorem acceptKeepsTheNewMessage : Obligations.AcceptKeepsTheNewMessage := by
  unfold Obligations.AcceptKeepsTheNewMessage
  intro c e
  have hqueue : (c.accept e).queue = (c.queue ++ [e]).drop (c.queue.length + 1 - c.maxSize.toNat) := by
    simp [Channel.accept, Channel.trim_queue]
  have hlast : c.maxSize.toNat ≠ 0 → c.queue.length + 1 - c.maxSize.toNat ≤ c.queue.length := by omega
  refine ⟨hqueue, fun hmax => ?_, fun hmax => ?_, ?_, fun hnsc => ?_, ?_, ?_⟩
  · have hle := hlast fun h => hmax (BitVec.eq_of_toNat_eq h)
    rw [hqueue, List.drop_append_of_le_length hle, List.getLast?_concat]
  · rw [hqueue, hmax]
    simp
  · simp [Channel.accept, Channel.trim_queue_length]
  · refine Channel.trim_nsc _ ?_
    cases hq : c.queue <;> simp [hq, hnsc]
  · simp [Channel.accept]
  · simp [Channel.accept]

section
variable {s : State} {ch : ChanIndex} {seq code : Word} {payload : Payload}

/-- A permitted ADD_DATA on a channel of the build (R56). -/
theorem exec_addData (hcur : s.cur = .producer) (hch : ch.toNat < s.cfg.nChannels) :
    exec (.addData ch seq code payload) s =
      .next (if (s.chan ch).enabled then s.acceptMessage ch ⟨seq, code, payload⟩ else s.respond s.cur okResponse) :=
  State.guarded_of_channel (mayIssue_of_producer hcur (by decide)) hch

theorem exec_addData_of_enabled (hcur : s.cur = .producer) (hch : ch.toNat < s.cfg.nChannels)
    (hen : (s.chan ch).enabled = true) :
    exec (.addData ch seq code payload) s = .next (s.acceptMessage ch ⟨seq, code, payload⟩) := by
  rw [exec_addData hcur hch, if_pos hen]

end

/-- Settles O16. -/
theorem addDataToDisabledChannelIsNoOp : Obligations.AddDataToDisabledChannelIsNoOp := by
  unfold Obligations.AddDataToDisabledChannelIsNoOp
  intro s ch seq code payload hcur hch hen
  rw [exec_addData hcur hch, hen, if_neg Bool.false_ne_true, State.respond_eq_answered okResponse_eq]

/-! #### The notification inside ADD_DATA -/

theorem notify_of_no_dispatch {cfg : Config} {a : Arch} {m : Memory}
    (h : notifyMemory cfg a.cpiSpan a.chans = (m, false)) : notify cfg a = a.withChans m := by
  simp [notify, h]

theorem notify_of_dispatch {cfg : Config} {a : Arch} {m : Memory}
    (h : notifyMemory cfg a.cpiSpan a.chans = (m, true)) :
    notify cfg a = (a.withChans m).dispatchEnter (Mode.kind cfg.mode) := by
  simp [notify, h]

theorem Mode.kind_eq (mode : Mode) : Mode.kind mode = if mode = .align then .aligned else .cpi := by
  cases mode <;> rfl

/-- The storage with a message accepted on channel ch, as ADD_DATA notifies of it (R56). -/
def State.withMessage (s : State) (ch : ChanIndex) (e : Entry) : Memory :=
  Memory.update s.arch.chans ch.toNat (fun c => c.accept e)

/-- ADD_DATA on an enabled channel asks the notification whether it dispatches (R56). -/
theorem State.acceptMessage_eq (s : State) (ch : ChanIndex) (e : Entry) :
    s.acceptMessage ch e =
      if (notify s.cfg (s.arch.withChans (s.withMessage ch e))).phase = .dispatch then
        s.enterDispatch (.addData ch e.seq e.code e.payload) (notify s.cfg (s.arch.withChans (s.withMessage ch e)))
      else (s.commit (notify s.cfg (s.arch.withChans (s.withMessage ch e)))).respond s.cur okResponse := rfl

section
variable {s : State} {ch : ChanIndex} {e : Entry} {m : Memory}

theorem State.acceptMessage_of_no_dispatch (hidle : s.arch.phase = .idle)
    (h : notifyMemory s.cfg s.arch.cpiSpan (s.withMessage ch e) = (m, false)) :
    s.acceptMessage ch e = s.stored m okResponse := by
  rw [State.acceptMessage_eq, notify_of_no_dispatch h]
  exact if_neg (by simp [hidle])

theorem State.acceptMessage_of_dispatch
    (h : notifyMemory s.cfg s.arch.cpiSpan (s.withMessage ch e) = (m, true)) :
    s.acceptMessage ch e = s.enterDispatch (.addData ch e.seq e.code e.payload)
      ((s.arch.withChans m).dispatchEnter (Mode.kind s.cfg.mode)) := by
  rw [State.acceptMessage_eq, notify_of_dispatch h]
  exact if_pos rfl

end

/-- Settles O17: the message is accepted, and the notification on the storage with it decides between the two answers. -/
theorem addDataNotifiesAndMayDispatch : Obligations.AddDataNotifiesAndMayDispatch := by
  unfold Obligations.AddDataNotifiesAndMayDispatch
  intro s ch seq code payload hcur hch hen hidle
  rw [exec_addData_of_enabled hcur hch hen]
  rcases hnotify : notifyMemory s.cfg s.arch.cpiSpan (s.withMessage ch ⟨seq, code, payload⟩) with ⟨m, dispatches⟩
  refine ⟨m, dispatches, hnotify, fun halign => ?_, ?_, ?_⟩
  · rw [← hnotify, notifyMemory, halign]
    rfl
  · rintro rfl
    rw [State.acceptMessage_of_no_dispatch hidle hnotify, okResponse_eq, ← hcur]
    rfl
  · rintro rfl
    rw [State.acceptMessage_of_dispatch hnotify, Mode.kind_eq]
    rfl

/-! #### The frame of an accepted message -/

section
variable (s : State) (ch : ChanIndex) (e : Entry)

theorem State.acceptMessage_cfg : (s.acceptMessage ch e).cfg = s.cfg := by
  dsimp only [State.acceptMessage]; split <;> rfl

theorem State.acceptMessage_cur : (s.acceptMessage ch e).cur = s.cur := by
  dsimp only [State.acceptMessage]; split <;> rfl

theorem State.acceptMessage_inbox : (s.acceptMessage ch e).inbox = s.inbox := by
  dsimp only [State.acceptMessage]; split <;> rfl

theorem State.acceptMessage_draws : (s.acceptMessage ch e).draws = s.draws := by
  dsimp only [State.acceptMessage]; split <;> rfl

theorem State.acceptMessage_cpiSpan : (s.acceptMessage ch e).arch.cpiSpan = s.arch.cpiSpan := by
  rw [State.acceptMessage_arch]
  obtain ⟨-, hspan, -⟩ := notify_cases s.cfg (s.arch.withChans (s.withMessage ch e))
  exact hspan

/-- What an accepted message leaves of the storage: the storage with it, pruned by the notification (R56, R67). -/
theorem State.acceptMessage_pruned : PrunedFrom (s.withMessage ch e) (s.acceptMessage ch e).arch.chans := by
  rw [State.acceptMessage_arch]
  obtain ⟨hpruned, -⟩ := notify_cases s.cfg (s.arch.withChans (s.withMessage ch e))
  exact hpruned

theorem State.withMessage_enabled (j : Nat) :
    (Memory.chan (s.withMessage ch e) j).enabled = (Memory.chan s.arch.chans j).enabled := by
  rw [State.withMessage, Memory.chan_update]
  split
  · simp [Channel.accept]
  · rfl

theorem State.withMessage_maxSize (j : Nat) :
    (Memory.chan (s.withMessage ch e) j).maxSize = (Memory.chan s.arch.chans j).maxSize := by
  rw [State.withMessage, Memory.chan_update]
  split
  · simp [Channel.accept]
  · rfl

theorem State.acceptMessage_enabled (j : Nat) :
    (Memory.chan (s.acceptMessage ch e).arch.chans j).enabled = (Memory.chan s.arch.chans j).enabled := by
  obtain ⟨hen, -⟩ := (s.acceptMessage_pruned ch e).chan j
  exact hen.trans (s.withMessage_enabled ch e j)

theorem State.acceptMessage_maxSize (j : Nat) :
    (Memory.chan (s.acceptMessage ch e).arch.chans j).maxSize = (Memory.chan s.arch.chans j).maxSize := by
  obtain ⟨-, hmax, -⟩ := (s.acceptMessage_pruned ch e).chan j
  exact hmax.trans (s.withMessage_maxSize ch e j)

theorem State.acceptMessage_length : (s.acceptMessage ch e).arch.chans.length = s.arch.chans.length :=
  (s.acceptMessage_pruned ch e).length.trans (Memory.length_update _ _ _)

/-- A disabled channel is as it was: the message went to an enabled one, and the notification skips it. -/
theorem State.acceptMessage_disabled (hen : (s.chan ch).enabled = true) {j : Nat}
    (hj : (Memory.chan s.arch.chans j).enabled = false) :
    Memory.chan (s.acceptMessage ch e).arch.chans j = Memory.chan s.arch.chans j := by
  have hne : j ≠ ch.toNat := by
    rintro rfl
    exact absurd (hen.symm.trans hj) (by decide)
  obtain ⟨-, -, -, hsame⟩ := (s.acceptMessage_pruned ch e).chan j
  rw [hsame ((s.withMessage_enabled ch e j).trans hj), State.withMessage, Memory.chan_update_ne _ hne]

end

/-- Settles O18: accepting writes one channel, and the notification only prunes enabled ones. -/
theorem addDataFrame : Obligations.AddDataFrame := by
  unfold Obligations.AddDataFrame
  intro s t ch seq code payload hcur hlen hch hen h
  rw [exec_addData_of_enabled hcur hch hen] at h
  cases h
  refine ⟨s.acceptMessage_cfg ch _, s.acceptMessage_cpiSpan ch _, s.acceptMessage_cur ch _, s.acceptMessage_inbox ch _,
    s.acceptMessage_draws ch _, s.acceptMessage_length ch _, fun j => ⟨s.acceptMessage_enabled ch _ j,
    s.acceptMessage_maxSize ch _ j, s.acceptMessage_disabled ch _ hen, fun hj => ?_, fun hj => ?_⟩⟩
  · rcases s.acceptMessage_queue_suffix ch ⟨seq, code, payload⟩ j with hrear | ⟨rfl, -⟩
    · exact hrear
    · exact absurd rfl hj
  · subst hj
    have hqueue := (s.acceptMessage_pruned ch ⟨seq, code, payload⟩).rearPart ch.toNat
    rw [State.withMessage, Memory.chan_update_self _ (hlen ▸ hch)] at hqueue
    exact hqueue.trans (Channel.accept_queue_suffix _ _)

/-! ### POP_FRONT and PEEK -/

theorem exec_popFront {s : State} {ch : ChanIndex} (hmay : MayIssue .popFront s.cur s.arch.phase)
    (hch : ch.toNat < s.cfg.nChannels) :
    exec (.popFront ch) s = .next (match s.queue ch.toNat with
      | [] => s.respond s.cur (entryResponse none)
      | e :: _ => s.stored (Memory.update s.arch.chans ch.toNat Channel.popFront) (entryResponse (some e))) :=
  State.guarded_of_channel hmay hch

/-- Settles O19. -/
theorem popFrontReturnsTheOldest : Obligations.PopFrontReturnsTheOldest := by
  unfold Obligations.PopFrontReturnsTheOldest
  intro s ch e q hcur hch hqueue
  have hlt : ch.toNat < s.arch.chans.length :=
    Memory.lt_length_of_queue fun h => List.cons_ne_nil e q (hqueue.symm.trans h)
  rw [exec_popFront (mayIssue_of_readPort hcur (.inl rfl)) hch, hqueue]
  refine ⟨_, rfl, ?_, s.stored_update_sameChannelsBut _ _ _, s.stored_sameRegisters _ _, s.stored_boundaries _ _, ?_⟩
  · have htail : (s.chan ch).queue.tail = q := congrArg List.tail hqueue
    rw [State.stored_update_chan _ _ _ hlt, Channel.popFront, htail]
    cases q <;> rfl
  · rw [State.stored_outbox, entryResponse_some]

/-- Settles O20. -/
theorem popFrontOnEmptyChangesNothing : Obligations.PopFrontOnEmptyChangesNothing := by
  unfold Obligations.PopFrontOnEmptyChangesNothing
  intro s ch hcur hch hqueue
  rw [exec_popFront (mayIssue_of_readPort hcur (.inl rfl)) hch, hqueue]
  exact congrArg _ (State.respond_eq_answered entryResponse_none)

/-- PEEK answers the entry at its position, if there is one (R58). -/
theorem exec_peek {s : State} {ch : ChanIndex} {pos : Word} (hmay : MayIssue .peek s.cur s.arch.phase)
    (hch : ch.toNat < s.cfg.nChannels) :
    exec (.peek ch pos) s = .next (Answered s (entryResponse (s.queue ch.toNat)[pos.toNat]?)) :=
  State.guarded_of_channel hmay hch

/-- Settles O21. -/
theorem peekReadsWithoutRemoving : Obligations.PeekReadsWithoutRemoving := by
  unfold Obligations.PeekReadsWithoutRemoving
  intro s ch pos hcur hch
  rw [exec_peek (mayIssue_of_readPort hcur (.inr rfl)) hch]
  refine ⟨fun e he => ?_, fun hpast => ?_⟩
  · rw [he, entryResponse_some]
  · rw [List.getElem?_eq_none hpast, entryResponse_none]

/-! ### PRUNE -/

theorem exec_prune {s : State} {ch : ChanIndex} {target : Word} (hmay : MayIssue .prune s.cur s.arch.phase)
    (hch : ch.toNat < s.cfg.nChannels) :
    exec (.prune ch target) s =
      .next (s.stored (Memory.update s.arch.chans ch.toNat (fun c => c.prune s.cfg.wrapThreshold target))
        (bitResponse (((s.chan ch).prune s.cfg.wrapThreshold target).frontIs target))) :=
  State.guarded_of_channel hmay hch

theorem Channel.frontIs_iff_head? (c : Channel) (t : Word) :
    c.frontIs t = true ↔ c.queue.head?.map Entry.seq = some t := by
  unfold Channel.frontIs
  cases c.queue <;> simp

/-- Settles O22: the channel after the command is the pruned one, and the bit is read off its front. -/
theorem pruneAnswersTheAlignmentBit : Obligations.PruneAnswersTheAlignmentBit := by
  unfold Obligations.PruneAnswersTheAlignmentBit
  intro s ch target hcur hch
  rw [exec_prune (mayIssue_of_producer hcur (by decide)) hch]
  refine ⟨_, rfl, ?_⟩
  generalize hr : bitResponse (((s.chan ch).prune s.cfg.wrapThreshold target).frontIs target) = r
  have hchan : (s.stored (Memory.update s.arch.chans ch.toNat (fun c => c.prune s.cfg.wrapThreshold target)) r).chan ch =
      (s.chan ch).prune s.cfg.wrapThreshold target :=
    Memory.chan_update_self_of_absent (Channel.prune_eq_self_of_empty rfl)
  have hqueue := congrArg Channel.queue hchan
  refine ⟨hqueue.trans (Channel.prune_queue _ _ _), ?_, ?_, ?_, s.stored_update_sameChannelsBut _ _ _,
    s.stored_sameRegisters _ _, s.stored_boundaries _ _, ?_⟩
  · rw [hchan, Channel.prune_maxSize]
  · rw [hchan, Channel.prune_enabled]
  · rw [hchan]
    exact Channel.prune_nsc _ _ _
  · rw [State.stored_outbox, ← hr, bitResponse_eq, hcur]
    simp only [Channel.frontIs_iff_head?, ← hqueue]
    rfl

/-! ### SET_MAX_SIZE and SET_MAX_SIZE_ALL -/

/-- Everything SET_MAX_SIZE does to a channel (R60). -/
theorem Channel.setBound_spec (n : Word) (c : Channel) :
    (c.setBound n).maxSize = n ∧ (c.setBound n).enabled = c.enabled ∧
      (c.setBound n).queue = c.queue.drop (c.queue.length - n.toNat) ∧
      (c.nsc = frontSeq c.queue → (c.setBound n).nsc = frontSeq (c.setBound n).queue) :=
  ⟨Channel.trim_maxSize _, Channel.trim_enabled _, Channel.trim_queue _, fun h => Channel.trim_nsc _ h⟩

/-- Settles O23. -/
theorem setMaxSizeTrimsAtOnce : Obligations.SetMaxSizeTrimsAtOnce := by
  unfold Obligations.SetMaxSizeTrimsAtOnce
  intro s ch n hcur hlen hch hn hlimit
  have hexec : exec (.setMaxSize ch n) s =
      .next (s.stored (Memory.update s.arch.chans ch.toNat (Channel.setBound n)) { rw := 0 }) :=
    State.guarded_pass (by simp [checkPort_eq_none_of_mayIssue (mayIssue_of_configPort hcur (.inr (.inl rfl))),
      checkChannel_of_legal hch, checkSize_of_legal hn hlimit])
  have hchan := s.stored_update_chan { rw := 0 } (Channel.setBound n) (hlen ▸ hch)
  obtain ⟨hmax, hen, hqueue, hnsc⟩ := (s.chan ch).setBound_spec n
  rw [← hchan] at hmax hen hqueue hnsc
  exact ⟨_, hexec, hmax, hen, hqueue, hnsc, s.stored_update_sameChannelsBut _ _ _, s.stored_sameRegisters _ _,
    s.stored_boundaries _ _, s.stored_outbox _ _⟩

/-- Settles O24. -/
theorem setMaxSizeAllTrimsEveryChannel : Obligations.SetMaxSizeAllTrimsEveryChannel := by
  unfold Obligations.SetMaxSizeAllTrimsEveryChannel
  intro s n hcur hn hlimit
  have hexec : exec (.setMaxSizeAll n) s = .next (s.stored (s.arch.chans.map (Channel.setBound n)) { rw := 0 }) :=
    State.guarded_pass (by simp [checkPort_eq_none_of_mayIssue (mayIssue_of_configPort hcur (.inr (.inl rfl))),
      checkSize_of_legal hn hlimit])
  refine ⟨_, hexec, List.length_map _, fun j hj => ?_, s.stored_sameRegisters _ _, s.stored_boundaries _ _,
    s.stored_outbox _ _⟩
  have hspec := (Memory.chan s.arch.chans j).setBound_spec n
  rw [← Memory.chan_map (Channel.setBound n) hj] at hspec
  exact hspec

/-! ### SET_ENABLED and SET_ENABLED_ALL -/

theorem Channel.setEnable_of_held {v : Bool} {c : Channel} (h : v = c.enabled) : c.setEnable v = c :=
  if_neg (not_not_intro h)

theorem Channel.setEnable_of_transition {v : Bool} {c : Channel} (h : v ≠ c.enabled) :
    c.setEnable v = { queue := [], nsc := 0, maxSize := c.maxSize, enabled := v } :=
  if_pos h

/-- Settles O25. -/
theorem setEnabledClearsOnTransition : Obligations.SetEnabledClearsOnTransition := by
  unfold Obligations.SetEnabledClearsOnTransition
  intro s ch v hcur hlen hch
  have hexec : exec (.setEnabled ch v) s =
      .next (s.stored (Memory.update s.arch.chans ch.toNat (Channel.setEnable v)) { rw := 0 }) :=
    State.guarded_of_channel (mayIssue_of_configPort hcur (.inl rfl)) hch
  refine ⟨_, hexec, fun hheld => ?_, fun hne => ?_, s.stored_update_sameChannelsBut _ _ _, s.stored_sameRegisters _ _,
    s.stored_boundaries _ _, s.stored_outbox _ _⟩
  · rw [State.stored_arch, Memory.update_eq_self (Channel.setEnable_of_held hheld)]
    rfl
  · rw [State.stored_update_chan _ _ _ (hlen ▸ hch), Channel.setEnable_of_transition hne]

/-- Settles O26. -/
theorem setEnabledAllClearsOnTransition : Obligations.SetEnabledAllClearsOnTransition := by
  unfold Obligations.SetEnabledAllClearsOnTransition
  intro s v hcur
  have hexec : exec (.setEnabledAll v) s = .next (s.stored (s.arch.chans.map (Channel.setEnable v)) { rw := 0 }) :=
    State.guarded_of_permitted (mayIssue_of_configPort hcur (.inl rfl))
  refine ⟨_, hexec, List.length_map _, fun j hj => ?_, s.stored_sameRegisters _ _, s.stored_boundaries _ _,
    s.stored_outbox _ _⟩
  rw [State.stored_arch, Arch.withChans_chans, Memory.chan_map _ hj]
  exact ⟨Channel.setEnable_of_held, Channel.setEnable_of_transition⟩

end Sys2Proof.Machine
end

section
/-! What an instruction and a step can do (20_memory.md sections 1 and 3), said once, and from it the invariant of 10_state.md,
the answers, the parameters, and how a dispatch begins and ends. -/

namespace Sys2Proof.Machine

/-! ### The register map -/

theorem Arch.wf_iff (cfg : Config) (a : Arch) :
    Arch.wf cfg a = true ↔
      Memory.wf cfg a.chans = true ∧ spanWf cfg a.cpiSpan = true ∧ phaseWf cfg a.phase a.dkind = true := by
  simp [Arch.wf, and_assoc]

theorem Arch.withChans_wf {cfg : Config} {a : Arch} {m : Memory}
    (hm : Memory.wf cfg a.chans = true → Memory.wf cfg m = true) (h : Arch.wf cfg a = true) :
    Arch.wf cfg (a.withChans m) = true := by
  rw [Arch.wf_iff] at h ⊢
  obtain ⟨hchans, hspan, hphase⟩ := h
  exact ⟨hm hchans, hspan, hphase⟩

theorem phaseWf_dispatch (cfg : Config) : phaseWf cfg .dispatch (Mode.kind cfg.mode) = true := by
  simp [phaseWf]

/-- The notification keeps the register map: it prunes, and enters a dispatch of the build's kind or none (R67, R68). -/
theorem notify_wf {cfg : Config} {a : Arch} (h : Arch.wf cfg a = true) : Arch.wf cfg (notify cfg a) = true := by
  rw [Arch.wf_iff] at h ⊢
  obtain ⟨hchans, hspan, hphase⟩ := h
  obtain ⟨hpruned, hspan', hcases⟩ := notify_cases cfg a
  refine ⟨hpruned.wf hchans, hspan'.symm ▸ hspan, ?_⟩
  rcases hcases with ⟨-, hp, hk⟩ | ⟨-, hp, hk⟩
  · rw [hp, hk]; exact hphase
  · rw [hp, hk]; exact phaseWf_dispatch cfg

theorem Arch.dispatchReturn_wf {cfg : Config} {a : Arch} (h : Arch.wf cfg a = true) :
    Arch.wf cfg a.dispatchReturn = true := by
  rw [Arch.wf_iff] at h ⊢
  obtain ⟨hchans, hspan, -⟩ := h
  exact ⟨hchans, hspan, rfl⟩

theorem State.withMessage_wf {s : State} {ch : ChanIndex} (e : Entry) (hen : (s.chan ch).enabled = true)
    (h : Memory.wf s.cfg s.arch.chans = true) : Memory.wf s.cfg (s.withMessage ch e) = true :=
  Memory.update_wf _ _ (Channel.accept_wf e hen) h

/-! ### Everything an instruction can do -/

/-- The states in which an instruction can end, from s: it answers and changes nothing, a status read among them, or it
takes a register map of the same phase and answers, or it is an ADD_DATA that enters a dispatch or a DONE that ends it. -/
inductive Effect (s : State) : Instr → State → Prop
  | answered (i : Instr) (r : Response) : Effect s i (s.respond s.cur r)
  | read (i : Instr) (r : Response) : Effect s i (s.afterRead.respond s.cur r)
  | written (i : Instr) (a : Arch) (r : Response) (hphase : a.phase = s.arch.phase)
      (hwf : Arch.wf s.cfg s.arch = true → Arch.wf s.cfg a = true) : Effect s i ((s.commit a).respond s.cur r)
  | entered (ch : ChanIndex) (seq code : Word) (payload : Payload) (a : Arch) (hcur : s.cur = .producer)
      (hen : (s.chan ch).enabled = true) (hphase : a.phase = .dispatch)
      (hwf : Arch.wf s.cfg s.arch = true → Arch.wf s.cfg a = true) :
      Effect s (.addData ch seq code payload) (s.enterDispatch (.addData ch seq code payload) a)
  | ended (v : Bool) (r r' : Response) (hcur : s.cur = .consumer) (hphase : s.arch.phase = .dispatch) :
      Effect s (.done v) ((s.leaveDispatch.respond s.cur r).respond .producer r')

/-- An error answer changes nothing (R88), so a guarded command is judged by its effect where the checks pass. -/
theorem Effect.of_guarded {s t effect : State} {i : Instr} {checks : List (Option Status)}
    (h : s.guarded checks effect = .next t) (heffect : firstError checks = none → Effect s i effect) :
    Effect s i t := by
  rcases State.guarded_next h with ⟨e, -, rfl⟩ | ⟨hpass, rfl⟩
  · exact .answered i (errorResponse e)
  · exact heffect hpass

/-- A command that changes the storage only. -/
theorem Effect.stored {s : State} (i : Instr) {m : Memory} (r : Response)
    (hm : Memory.wf s.cfg s.arch.chans = true → Memory.wf s.cfg m = true) : Effect s i (s.stored m r) :=
  .written i (s.arch.withChans m) r rfl (Arch.withChans_wf hm)

theorem permitted_of_firstError {s : State} {op : Opcode} {rest : List (Option Status)}
    (h : firstError (checkPort s op :: rest) = none) : MayIssue op s.cur s.arch.phase := by
  have hport := (firstError_eq_none_iff _).mp h _ List.mem_cons_self
  exact (permitted_iff_mayIssue _ _ _).mp (checkPort_eq_none.mp hport)

theorem Effect.of_acceptMessage {s : State} {ch : ChanIndex} (e : Entry) (hcur : s.cur = .producer)
    (hen : (s.chan ch).enabled = true) :
    Effect s (.addData ch e.seq e.code e.payload) (s.acceptMessage ch e) := by
  have hwf : Arch.wf s.cfg s.arch = true →
      Arch.wf s.cfg (notify s.cfg (s.arch.withChans (s.withMessage ch e))) = true :=
    fun h => notify_wf (Arch.withChans_wf (State.withMessage_wf e hen) h)
  rw [State.acceptMessage_eq]
  split
  · next hphase => exact .entered ch e.seq e.code e.payload _ hcur hen hphase hwf
  · next hphase =>
    obtain ⟨-, -, hcases⟩ := notify_cases s.cfg (s.arch.withChans (s.withMessage ch e))
    rcases hcases with ⟨-, hsame, -⟩ | ⟨-, hdispatch, -⟩
    · exact .written _ _ _ hsame hwf
    · exact absurd hdispatch hphase

theorem mayIssue_addData_iff {p : Port} {phase : Phase} : MayIssue .addData p phase ↔ p = .producer := by
  simp [MayIssue]

theorem mayIssue_done_iff {p : Port} {phase : Phase} :
    MayIssue .done p phase ↔ p = .consumer ∧ phase = .dispatch := by
  simp [MayIssue]

theorem Effect.of_addData {s t : State} {ch : ChanIndex} {seq code : Word} {payload : Payload}
    (h : execAddData ch seq code payload s = .next t) : Effect s (.addData ch seq code payload) t := by
  refine .of_guarded h fun hpass => ?_
  split
  · next hen =>
    have hcur : s.cur = .producer := mayIssue_addData_iff.mp (permitted_of_firstError hpass)
    exact .of_acceptMessage ⟨seq, code, payload⟩ hcur hen
  · exact .answered _ _

theorem Effect.of_popFront {s t : State} {ch : ChanIndex} (h : execPopFront ch s = .next t) :
    Effect s (.popFront ch) t := by
  refine .of_guarded h fun _ => ?_
  split
  · exact .answered _ _
  · exact .stored _ _ (Memory.update_wf _ _ Channel.popFront_wf)

theorem Effect.of_setCpiSpan {s t : State} {n : Word} (h : execSetCpiSpan n s = .next t) :
    Effect s (.setCpiSpan n) t := by
  refine .of_guarded h fun hpass => .written _ { s.arch with cpiSpan := n } _ rfl fun hwf => ?_
  have hchecks := (firstError_eq_none_iff _).mp hpass
  have hmode : s.cfg.mode = .cpi := checkMode_eq_none.mp (hchecks _ (by simp))
  have hspan : n ≠ 0 := checkSpan_eq_none.mp (hchecks _ (by simp))
  rw [Arch.wf_iff] at hwf ⊢
  obtain ⟨hchans, -, hphase⟩ := hwf
  refine ⟨hchans, ?_, hphase⟩
  rw [spanWf, hmode]
  exact decide_eq_true hspan

/-- Every instruction that answers a next state has one of the effects. -/
theorem effect_of_exec {i : Instr} {s t : State} (h : exec i s = .next t) : Effect s i t := by
  cases i with
  | addData ch seq code payload => exact .of_addData h
  | popFront ch => exact .of_popFront h
  | setCpiSpan n => exact .of_setCpiSpan h
  | peek ch pos => exact .of_guarded h fun _ => .answered _ _
  | prune ch target => exact .of_guarded h fun _ => .stored _ _ (Memory.update_wf _ _ (Channel.prune_wf _ target))
  | setMaxSize ch n =>
    refine .of_guarded h fun hpass => .stored _ _ (Memory.update_wf _ _ (Channel.setBound_wf ?_))
    exact checkSize_eq_none.mp ((firstError_eq_none_iff _).mp hpass _ (by simp))
  | setMaxSizeAll n =>
    refine .of_guarded h fun hpass => .stored _ _ (Memory.map_wf _ fun _ => Channel.setBound_wf ?_)
    exact checkSize_eq_none.mp ((firstError_eq_none_iff _).mp hpass _ (by simp))
  | setEnabled ch v => exact .of_guarded h fun _ => .stored _ _ (Memory.update_wf _ _ (Channel.setEnable_wf v))
  | setEnabledAll v => exact .of_guarded h fun _ => .stored _ _ (Memory.map_wf _ fun _ => Channel.setEnable_wf v)
  | readChStatus ch => exact .of_guarded h fun _ => .read _ _
  | readGlobal => exact .of_guarded h fun _ => .read _ _
  | done v =>
    refine .of_guarded h fun hpass => ?_
    obtain ⟨hcur, hphase⟩ := mayIssue_done_iff.mp (permitted_of_firstError hpass)
    exact .ended v _ _ hcur hphase

section
variable {s t : State} {i : Instr}

theorem Effect.cfg_eq (h : Effect s i t) : t.cfg = s.cfg := by
  cases h <;> rfl

theorem Effect.inbox_eq (h : Effect s i t) : t.inbox = s.inbox := by
  cases h <;> rfl

/-! ### Everything a step can do -/

/-- Everything the service of a transaction does: it runs the instruction, or answers an error (R89). -/
theorem serve_cases {tr : Transaction} (h : serve tr s = .next t) :
    (∃ i, decode tr = .ok i ∧ exec i s = .next t) ∨ ∃ e, t = s.raise e := by
  unfold serve at h
  split at h
  case h_1 i hi => exact .inl ⟨i, hi, h⟩
  case h_2 =>
    injection h with h
    exact .inr ⟨.errOpcode, h.symm⟩
  case h_3 op _ =>
    rcases State.guarded_next h with ⟨e, -, rfl⟩ | ⟨hpass, -⟩
    · exact .inr ⟨e, rfl⟩
    · exact nomatch (firstError_eq_none_iff _).mp hpass (some .errFormat) (by simp)
  case h_4 => cases h

/-- Everything a step does (R29): it waits, serves the command of the next event, or takes a reset to a legal build. -/
theorem step_cases (h : step s = .next t) :
    (s.nextEvent = none ∧ t = s) ∨
    (∃ k p tr, s.nextEvent = some k ∧ k.event = .command p tr ∧ serve tr (s.atPort p k) = .next t) ∨
    (∃ k c, s.nextEvent = some k ∧ k.event = .reset c ∧ c.legal = true ∧ t = s.resetTo c k) := by
  unfold step at h
  split at h
  case isFalse => cases h
  unfold advance at h
  split at h
  · next hnone =>
    injection h with h
    exact .inl ⟨hnone, h.symm⟩
  · next k hk =>
    split at h
    · next p tr hevent => exact .inr (.inl ⟨k, p, tr, hk, hevent, h⟩)
    · next c hevent =>
      split at h
      · next hlegal =>
        injection h with h
        exact .inr (.inr ⟨k, c, hk, hevent, hlegal, h.symm⟩)
      · cases h

theorem serve_cfg {tr : Transaction} (h : serve tr s = .next t) : t.cfg = s.cfg := by
  rcases serve_cases h with ⟨i, -, hexec⟩ | ⟨e, rfl⟩
  · exact (effect_of_exec hexec).cfg_eq
  · rfl

theorem serve_inbox {tr : Transaction} (h : serve tr s = .next t) : t.inbox = s.inbox := by
  rcases serve_cases h with ⟨i, -, hexec⟩ | ⟨e, rfl⟩
  · exact (effect_of_exec hexec).inbox_eq
  · rfl

end

/-- Settles O52. -/
theorem parametersAreFixed : Obligations.ParametersAreFixed := by
  unfold Obligations.ParametersAreFixed
  intro s t h
  rcases step_cases h with ⟨-, rfl⟩ | ⟨k, p, tr, -, -, hserve⟩ | ⟨k, c, hk, hevent, -, rfl⟩
  · exact .inl rfl
  · exact .inl ((serve_cfg hserve).trans (s.atPort_cfg p k))
  · exact .inr ⟨k, c, hk, hevent, rfl⟩

/-! ### The invariant -/

theorem State.inv_iff (s : State) :
    s.inv = true ↔ s.cfg.legal = true ∧ Arch.wf s.cfg s.arch = true ∧ progressWf s.arch.phase s.inProgress = true ∧
      (s.inProgress = none → s.boundaries = []) ∧ ∀ a ∈ s.boundaries, Arch.wf s.cfg a = true := by
  simp only [State.inv, Bool.and_eq_true, List.all_eq_true, Bool.or_eq_true, List.isEmpty_iff, and_assoc]
  refine and_congr_right fun _ => and_congr_right fun _ => and_congr_right fun _ => and_congr_left fun _ => ?_
  cases s.inProgress <;> simp

/-- A new register map with the invariants keeps the invariant: a state that becomes a boundary had them (R34). -/
theorem State.commit_inv {s : State} {a : Arch} (hphase : a.phase = s.arch.phase) (hwf : Arch.wf s.cfg a = true)
    (h : s.inv = true) : (s.commit a).inv = true := by
  rw [State.inv_iff] at h ⊢
  obtain ⟨hlegal, harch, hprogress, hempty, hbounds⟩ := h
  refine ⟨hlegal, hwf, by simpa [hphase] using hprogress, fun hnone => ?_, fun b hb => ?_⟩
  · have hnone' : s.inProgress = none := hnone
    simp [hnone', hempty hnone']
  · rw [State.commit_boundaries] at hb
    split at hb
    · rcases List.mem_append.mp hb with hb | hb
      · exact hbounds b hb
      · exact List.mem_singleton.mp hb ▸ harch
    · exact hbounds b hb

theorem State.enterDispatch_inv {s : State} {a : Arch} {ch : ChanIndex} {seq code : Word} {payload : Payload}
    (hphase : a.phase = .dispatch) (hwf : Arch.wf s.cfg a = true) (h : s.inv = true) :
    (s.enterDispatch (.addData ch seq code payload) a).inv = true := by
  rw [State.inv_iff] at h ⊢
  obtain ⟨hlegal, harch, -⟩ := h
  exact ⟨hlegal, hwf, decide_eq_true hphase, nofun, fun b hb => List.mem_singleton.mp hb ▸ harch⟩

theorem State.leaveDispatch_inv {s : State} (h : s.inv = true) : s.leaveDispatch.inv = true := by
  rw [State.inv_iff] at h ⊢
  obtain ⟨hlegal, harch, -⟩ := h
  exact ⟨hlegal, Arch.dispatchReturn_wf harch, rfl, fun _ => rfl, nofun⟩

theorem Effect.keeps_inv {s t : State} {i : Instr} (h : Effect s i t) (hinv : s.inv = true) : t.inv = true := by
  have harch : Arch.wf s.cfg s.arch = true := ((State.inv_iff s).mp hinv).2.1
  cases h with
  | answered i r => exact hinv
  | read i r => exact hinv
  | written i a r hphase hwf => exact State.commit_inv hphase (hwf harch) hinv
  | entered ch seq code payload a hcur hen hphase hwf => exact State.enterDispatch_inv hphase (hwf harch) hinv
  | ended v r r' hcur hphase => exact State.leaveDispatch_inv (s := s) hinv

theorem serve_keeps_inv {tr : Transaction} {s t : State} (h : serve tr s = .next t) (hinv : s.inv = true) :
    t.inv = true := by
  rcases serve_cases h with ⟨i, -, hexec⟩ | ⟨e, rfl⟩
  · exact (effect_of_exec hexec).keeps_inv hinv
  · exact hinv

theorem initialSpan_wf {c : Config} (h : c.legal = true) : spanWf c (initialSpan c) = true := by
  cases hmode : c.mode with
  | align => simp [spanWf, initialSpan, hmode]
  | cpi =>
    simp only [Config.legal, hmode, Bool.and_eq_true, Bool.or_eq_true, reduceCtorEq, decide_false, Bool.false_eq_true,
      false_or] at h
    simpa [spanWf, initialSpan, hmode, spanLegal] using h.2

theorem State.resetWith_inv {c : Config} (h : c.legal = true) : (State.resetWith c).inv = true :=
  (State.inv_iff _).mpr
    ⟨h, (Arch.wf_iff _ _).mpr ⟨Memory.initial_wf h, initialSpan_wf h, rfl⟩, rfl, fun _ => rfl, nofun⟩

/-- Settles O56. -/
theorem invariantHoldsAtReset : Obligations.InvariantHoldsAtReset :=
  ⟨fun _ => State.resetWith_inv, State.resetWith_inv (by decide)⟩

/-- Settles O57: a step waits, serves a command, whose effect keeps the invariant, or resets to a legal build. -/
theorem everyStepKeepsTheInvariant : Obligations.EveryStepKeepsTheInvariant := by
  unfold Obligations.EveryStepKeepsTheInvariant
  intro s t hinv h
  rcases step_cases h with ⟨-, rfl⟩ | ⟨k, p, tr, -, -, hserve⟩ | ⟨k, c, -, -, hlegal, rfl⟩
  · exact hinv
  · exact serve_keeps_inv hserve hinv
  · exact State.resetWith_inv hlegal

/-! ### How a dispatch begins and ends -/

/-- Settles O35: of the effects only `Effect.entered` leads from IDLE to DISPATCH. -/
theorem onlyAddDataDispatches : Obligations.OnlyAddDataDispatches := by
  unfold Obligations.OnlyAddDataDispatches
  intro i s t h hidle hdispatch
  have hne : s.arch.phase ≠ .dispatch := by simp [hidle]
  cases effect_of_exec h with
  | answered i r => exact absurd hdispatch hne
  | read i r => exact absurd hdispatch hne
  | written i a r hphase hwf => exact absurd (hphase.symm.trans hdispatch) hne
  | entered ch seq code payload a hcur hen hphase hwf => exact ⟨ch, seq, code, payload, rfl, hen, hcur⟩
  | ended v r r' hcur hphase => exact absurd hphase hne

/-- Of the effects only `Effect.ended` leads from DISPATCH to IDLE. -/
theorem Effect.done_of_phase {s t : State} {i : Instr} (h : Effect s i t) (hdispatch : s.arch.phase = .dispatch)
    (hidle : t.arch.phase = .idle) : ∃ v, i = .done v ∧ s.cur = .consumer := by
  have hne : s.arch.phase ≠ .idle := by simp [hdispatch]
  cases h with
  | answered i r => exact absurd hidle hne
  | read i r => exact absurd hidle hne
  | written i a r hphase hwf => exact absurd (hphase.symm.trans hidle) hne
  | entered ch seq code payload a hcur hen hphase hwf => exact nomatch hphase.symm.trans hidle
  | ended v r r' hcur hphase => exact ⟨v, rfl, hcur⟩

/-- Settles O37. -/
theorem onlyDoneOrResetEndsADispatch : Obligations.OnlyDoneOrResetEndsADispatch := by
  unfold Obligations.OnlyDoneOrResetEndsADispatch
  intro s t h hdispatch hidle
  rcases step_cases h with ⟨-, rfl⟩ | ⟨k, p, tr, hk, hevent, hserve⟩ | ⟨k, c, hk, hevent, -, -⟩
  · exact nomatch hdispatch.symm.trans hidle
  · rcases serve_cases hserve with ⟨i, hdecode, hexec⟩ | ⟨e, rfl⟩
    · obtain ⟨v, rfl, hcur⟩ := (effect_of_exec hexec).done_of_phase hdispatch hidle
      have hp : p = .consumer := hcur
      exact ⟨k, hk, .inr ⟨tr, v, hp ▸ hevent, hdecode⟩⟩
    · exact nomatch hdispatch.symm.trans hidle
  · exact ⟨k, hk, .inl ⟨c, hevent⟩⟩

/-- The response word that completes an ADD_DATA after a dispatch: DISP is 1 or 2 in 5:4, CB is bit 6 (R40, R69). -/
theorem dispatchedResponse_eq (kind : DispatchKind) (cb : Bool) :
    dispatchedResponse kind cb =
      { rw := (if kind = .aligned then 0x10 else 0x20) + (if cb then 0x40 else 0) } := by
  cases kind <;> cases cb <;> decide

/-- Settles O36. -/
theorem doneEndsTheDispatch : Obligations.DoneEndsTheDispatch := by
  unfold Obligations.DoneEndsTheDispatch
  intro s v hcur hphase
  have hexec : exec (.done v) s =
      .next ((s.leaveDispatch.respond s.cur okResponse).respond .producer (dispatchedResponse s.arch.dkind v)) :=
    State.guarded_of_permitted (mayIssue_done_iff.mpr ⟨hcur, hphase⟩)
  have houtbox : ((s.leaveDispatch.respond s.cur okResponse).respond .producer
      (dispatchedResponse s.arch.dkind v)).outbox = s.outbox ++
        [⟨.consumer, { rw := 0 }⟩, ⟨.producer, { rw := (if s.arch.dkind = .aligned then 0x10 else 0x20) +
          (if v then 0x40 else 0) }⟩] := by
    simp [dispatchedResponse_eq, okResponse_eq, hcur]
  rw [hexec, ← houtbox]
  rfl

/-- Settles O10, from what DONE leaves and answers. -/
theorem consumerValueIsOnlyReported : Obligations.ConsumerValueIsOnlyReported := by
  unfold Obligations.ConsumerValueIsOnlyReported
  intro s hcur hphase
  have hexec : ∀ (v : Bool) (rw : Word),
      (if s.arch.dkind = .aligned then 0x10 else 0x20) + (if v then 0x40 else 0) = rw →
      exec (.done v) s = .next { s.leaveDispatch with
        outbox := (s.outbox ++ [⟨.consumer, { rw := 0 }⟩]) ++ [⟨.producer, { rw := rw }⟩] } := by
    rintro v rw rfl
    rw [doneEndsTheDispatch s v hcur hphase, List.append_assoc]
    rfl
  refine ⟨s.leaveDispatch, _, if s.arch.dkind = .aligned then 0x10 else 0x20, ?_, ?_, rfl, rfl, rfl, rfl,
    hexec false _ ?_, hexec true _ ?_⟩
  · split <;> rfl
  · split <;> rfl
  · split <;> rfl
  · split <;> rfl

/-- Settles O42. -/
theorem setCpiSpanWritesTheSpan : Obligations.SetCpiSpanWritesTheSpan := by
  unfold Obligations.SetCpiSpanWritesTheSpan
  intro s n hcur hmode hn
  have hmay : MayIssue .setCpiSpan s.cur s.arch.phase := mayIssue_of_configPort hcur (.inr (.inr rfl))
  have hexec : exec (.setCpiSpan n) s =
      .next ((s.commit { s.arch with cpiSpan := n }).respond s.cur okResponse) :=
    State.guarded_pass (by simp only [firstError_none, firstError_nil, checkPort_eq_none_of_mayIssue hmay,
      checkMode_eq_none.mpr hmode, checkSpan_eq_none.mpr hn])
  rw [hexec, okResponse_eq]
  rfl

/-! ### The answers -/

/-- Settles O49: each effect gives its answers. -/
theorem everyCommandIsAnsweredOnce : Obligations.EveryCommandIsAnsweredOnce := by
  unfold Obligations.EveryCommandIsAnsweredOnce
  intro s t k p tr _ hk hevent h
  rcases serve_cases (serve_of_step_command hk hevent h) with ⟨i, -, hexec⟩ | ⟨e, rfl⟩
  · cases effect_of_exec hexec with
    | answered i r => exact .inl ⟨r, rfl, rfl⟩
    | read i r => exact .inl ⟨r, rfl, rfl⟩
    | written i a r hphase hwf => exact .inl ⟨r, rfl, rfl⟩
    | entered ch seq code payload a hcur hen hphase hwf => exact .inr (.inl ⟨hcur, rfl, hphase, rfl⟩)
    | ended v r r' hcur hphase =>
      have hp : p = .consumer := hcur
      exact .inr (.inr ⟨hp, hphase, rfl, r, r', by simp [hp]⟩)
  · exact .inl ⟨errorResponse e, rfl, rfl⟩

end Sys2Proof.Machine
end

section
/-! The ports (20_memory.md sections 1 and 3; 70_reset_and_hazards.md section 1): which of the offered events takes effect
next, which are held back, and that a proper use of the interface never stops the machine. -/

namespace Sys2Proof.Machine

/-! ### What a step does with the next event -/

section
variable {s : State} {k : Picked}

theorem step_of_command {p : Port} {tr : Transaction} (hlegal : s.cfg.legal = true) (hk : s.nextEvent = some k)
    (hevent : k.event = .command p tr) : step s = serve tr (s.atPort p k) := by
  simp only [step, hlegal, if_true, advance, hk, hevent]

theorem step_of_reset {c : Config} (hlegal : s.cfg.legal = true) (hk : s.nextEvent = some k)
    (hevent : k.event = .reset c) :
    step s = if c.legal then .next (s.resetTo c k) else .refused .illegalConfiguration := by
  simp only [step, hlegal, if_true, advance, hk, hevent]

theorem step_of_none (hlegal : s.cfg.legal = true) (hk : s.nextEvent = none) : step s = .next s := by
  simp only [step, hlegal, if_true, advance, hk]

theorem step_of_illegal (h : s.cfg.legal = false) : step s = .refused .illegalConfiguration := by
  simp [step, h]

theorem serve_of_decode {tr : Transaction} {i : Instr} (h : decode tr = .ok i) : serve tr s = exec i s := by
  simp only [serve, h]

end

/-! ### Which events may start -/

/-- The commands that wait while a command of port P is in progress (R32, R92): those of port P, and the SET_* of port S. -/
def HeldBack (e : Event) : Prop :=
  (∃ tr, e = .command .producer tr) ∨ ∃ tr, e = .command .status tr ∧ isConfigWrite tr = true

theorem mayStart_of_heldBack {e : Event} (h : HeldBack e) (held : Bool) : mayStart true held e = false := by
  rcases h with ⟨tr, rfl⟩ | ⟨tr, rfl, hwrite⟩
  · rfl
  · simp [mayStart, hwrite]

theorem mayStart_of_startsAtOnce {s : State} {p : Port} {tr : Transaction} (h : StartsAtOnce s p tr) :
    mayStart s.inProgress.isSome false (.command p tr) = true := by
  rcases h with h | rfl | ⟨rfl, hread⟩
  · cases p <;> simp [mayStart, h]
  · rfl
  · simp [mayStart, hread]

/-- An event that may not start is a command; while an earlier event of port S is held, a command of port S waits, and one
of port P waits only where port P is busy (R31, R32). -/
theorem mayStart_eq_false {busy held : Bool} {e : Event} (h : mayStart busy held e = false) :
    (busy = true ∧ ∃ tr, e = .command .producer tr) ∨ ∃ tr, e = .command .status tr := by
  cases e with
  | reset c => cases h
  | command p tr =>
    cases p with
    | producer => exact .inl ⟨by simpa [mayStart] using h, tr, rfl⟩
    | status => exact .inr ⟨tr, rfl⟩
    | consumer => cases h

theorem not_mayStart_producer_of_busy (held : Bool) (tr : Transaction) :
    mayStart true held (.command .producer tr) = false := rfl

theorem not_mayStart_status_of_held (busy : Bool) (tr : Transaction) :
    mayStart busy true (.command .status tr) = false := rfl

/-! ### Which event is next -/

/-- Events that are held back are passed over, in their order. -/
theorem pickEvent_of_heldBack {waiting : List Event} (hwaiting : ∀ e ∈ waiting, HeldBack e) (held : Bool)
    (rest : List Event) :
    pickEvent true held (waiting ++ rest) =
      (pickEvent true (held || waiting.any Event.onPortS) rest).map
        fun k => ⟨waiting ++ k.waiting, k.event, k.later⟩ := by
  induction waiting generalizing held with
  | nil => simp
  | cons e waiting ih =>
    obtain ⟨he, hrest⟩ := List.forall_mem_cons.mp hwaiting
    rw [List.cons_append, pickEvent, mayStart_of_heldBack he, if_neg Bool.false_ne_true, ih hrest, List.any_cons,
      Bool.or_assoc]
    cases pickEvent true (held || (e.onPortS || waiting.any Event.onPortS)) rest <;> rfl

/-- Settles O48: what waits is a command of port P while port P is busy, or one of port S, and neither lets a later command
of its own port start. -/
theorem portOrderIsKept : Obligations.PortOrderIsKept := by
  unfold Obligations.PortOrderIsKept
  intro s k hk
  obtain ⟨hsplit, hstart, hwait⟩ := pickEvent_spec _ _ _ _ hk
  refine ⟨hsplit, fun p tr hevent e he => ?_⟩
  rw [hevent] at hstart
  obtain ⟨pre, post, hpre⟩ := List.append_of_mem he
  rcases mayStart_eq_false (hwait pre e post hpre) with ⟨hbusy, tr', rfl⟩ | ⟨tr', rfl⟩
  · refine ⟨.producer, tr', rfl, ?_⟩
    rintro rfl
    rw [hbusy, not_mayStart_producer_of_busy] at hstart
    cases hstart
  · refine ⟨.status, tr', rfl, ?_⟩
    rintro rfl
    have hheld : k.waiting.any Event.onPortS = true := List.any_eq_true.mpr ⟨_, he, rfl⟩
    rw [hheld, Bool.or_true, not_mayStart_status_of_held] at hstart
    cases hstart

/-- Settles O47: the event taken may start, and held-back events may not; where all are held back none is taken. -/
theorem busyPortHoldsCommands : Obligations.BusyPortHoldsCommands := by
  unfold Obligations.BusyPortHoldsCommands
  intro s hlegal hbusy
  refine ⟨fun k hk => ?_, fun hall => ?_⟩
  · obtain ⟨-, hstart, -⟩ := pickEvent_spec _ _ _ _ hk
    rw [hbusy] at hstart
    have hnot : ¬ HeldBack k.event := fun h => by simp [mayStart_of_heldBack h] at hstart
    refine ⟨fun tr hevent => hnot (.inl ⟨tr, hevent⟩), fun tr hevent => ?_⟩
    exact Bool.eq_false_iff.mpr fun hwrite => hnot (.inr ⟨tr, hevent, hwrite⟩)
  · have hnone : s.nextEvent = none := by
      have hpick := pickEvent_of_heldBack hall false []
      rw [List.append_nil] at hpick
      rw [State.nextEvent, hbusy, hpick]
      rfl
    exact step_of_none hlegal hnone

/-- Settles O46. -/
theorem stepRunsTheDecodedInstruction : Obligations.StepRunsTheDecodedInstruction := by
  unfold Obligations.StepRunsTheDecodedInstruction
  refine ⟨fun s k p tr i hlegal hk hevent hdecode => ?_, fun s p tr rest hinbox hstart => ?_⟩
  · rw [step_of_command hlegal hk hevent, serve_of_decode hdecode]
    rfl
  · rw [State.nextEvent, hinbox]
    exact pickEvent_head _ _ _ _ (mayStart_of_startsAtOnce hstart)

/-! ### Reset -/

/-- Settles O54: a reset may always start, so it is taken first, or behind events that are held back. -/
theorem resetAbandonsWorkInProgress : Obligations.ResetAbandonsWorkInProgress := by
  unfold Obligations.ResetAbandonsWorkInProgress
  refine ⟨fun s c k hlegal hc hk hevent => ?_, fun s c rest hinbox => ?_, fun s c waiting rest hbusy hinbox hheld => ?_⟩
  · rw [step_of_reset hlegal hk hevent, if_pos hc]
    rfl
  · rw [State.nextEvent, hinbox]
    exact pickEvent_head _ _ _ _ rfl
  · rw [State.nextEvent, hinbox, hbusy, pickEvent_of_heldBack hheld, pickEvent_head _ _ _ _ rfl]
    simp

/-- What makes a build legal (R99). -/
theorem Config.legal_iff (c : Config) :
    c.legal = true ↔ 1 ≤ c.nChannels ∧ c.nChannels ≤ 65536 ∧ c.maxSizeLimit ≠ 0 ∧ c.defaultMaxSize ≠ 0 ∧
      c.defaultMaxSize ≤ c.maxSizeLimit ∧ (c.mode = .align ∨ c.defaultCpiSpan ≠ 0) := by
  simp only [Config.legal, Bool.and_eq_true, Bool.or_eq_true, decide_eq_true_eq, and_assoc]

/-- Settles O55: each illegal parameter contradicts a conjunct of `Config.legal_iff`. -/
theorem illegalBuildIsRefused : Obligations.IllegalBuildIsRefused := by
  unfold Obligations.IllegalBuildIsRefused
  refine ⟨fun s hbad => step_of_illegal (Bool.eq_false_iff.mpr fun hlegal => ?_), fun s c k hk hevent hc => ?_⟩
  · obtain ⟨hpos, hmany, hlimit, hdefault, hle, hspan⟩ := (Config.legal_iff s.cfg).mp hlegal
    rcases hbad with h | h | h | h | h | ⟨hmode, h⟩
    · omega
    · omega
    · exact hlimit h
    · exact hdefault h
    · exact absurd hle (BitVec.not_le.mpr h)
    · rcases hspan with halign | hne
      · exact nomatch halign.symm.trans hmode
      · exact hne h
  · cases hlegal : s.cfg.legal with
    | false => exact step_of_illegal hlegal
    | true => rw [step_of_reset hlegal hk hevent, hc, if_neg Bool.false_ne_true]

/-! ### Proper use -/

theorem decode_ne_misframed {tr : Transaction} (h : tr.framed = true) : decode tr ≠ .error .misframed := by
  cases hop : Opcode.ofField (opField tr.cw) with
  | none => simp [decode_of_reserved hop h]
  | some op =>
    rw [decode_of_selected hop h]
    split <;> simp

/-- A transaction with the words its OP takes is always answered (R37). -/
theorem serve_answers {tr : Transaction} (h : tr.framed = true) (s : State) : ∃ t, serve tr s = .next t := by
  unfold serve
  split
  case h_1 i _ => exact exec_answers i s
  case h_2 => exact ⟨_, rfl⟩
  case h_3 => exact State.guarded_answers _ _ _
  case h_4 hmisframed => exact absurd hmisframed (decode_ne_misframed h)

theorem State.properInbox_iff (s : State) : s.properInbox = true ↔ ∀ e ∈ s.inbox, e.proper = true := by
  simp [State.properInbox]

/-- Settles O50: the event taken is one of those offered, so it is answered or is a legal reset, and what stays offered was
offered before. -/
theorem properUseNeverStops : Obligations.ProperUseNeverStops := by
  unfold Obligations.ProperUseNeverStops
  intro s hlegal hproper
  cases hk : s.nextEvent with
  | none => exact ⟨s, step_of_none hlegal hk, hlegal, hproper⟩
  | some k =>
    obtain ⟨hinbox, -, -⟩ := pickEvent_spec _ _ _ _ hk
    rw [State.properInbox_iff, hinbox] at hproper
    obtain ⟨hwaiting, hrest⟩ := List.forall_mem_append.mp hproper
    obtain ⟨hproperEvent, hlater⟩ := List.forall_mem_cons.mp hrest
    cases hevent : k.event with
    | reset c =>
      have hc : c.legal = true := by rwa [hevent] at hproperEvent
      rw [step_of_reset hlegal hk hevent, if_pos hc]
      exact ⟨_, rfl, hc, (State.properInbox_iff _).mpr hlater⟩
    | command p tr =>
      have hframed : tr.framed = true := by rwa [hevent] at hproperEvent
      obtain ⟨t, hserve⟩ := serve_answers hframed (s.atPort p k)
      refine ⟨t, (step_of_command hlegal hk hevent).trans hserve, ?_, ?_⟩
      · rw [serve_cfg hserve]
        exact hlegal
      · rw [State.properInbox_iff, serve_inbox hserve]
        exact List.forall_mem_append.mpr ⟨hwaiting, hlater⟩

end Sys2Proof.Machine
end

section
/-! The target and the alignment pass (41_alignment.md sections 1 and 3), the check of a channel and the notification of CPI
mode (42_cpi.md sections 1 and 2), and from them what a dispatch shows and when one is entered. -/

namespace Sys2Proof.Machine

/-! ### The target -/

theorem newer_eq_true_iff (T v m : Word) :
    newer T v m = true ↔ m.toNat < v.toNat ∨ (v.toNat < m.toNat ∧ T.toNat < m.toNat - v.toNat) := by
  rw [newer_eq_older, older_eq_true_iff]

/-- A channel takes part in the fold where it is enabled and holds data; the others leave the target (R65). -/
theorem targetStep_cases (T : Word) (acc : Option Word) (c : Channel) :
    (targetStep T acc c = acc ∧ (c.enabled = true → c.queue = [])) ∨
    (c.enabled = true ∧ c.queue ≠ [] ∧ ∃ t, targetStep T acc c = some t) := by
  by_cases hskip : c.enabled = false ∨ c.queue = []
  · exact .inl ⟨targetStep_skip T acc c hskip, fun hen => hskip.resolve_left (by simp [hen])⟩
  · obtain ⟨hen, hq⟩ := not_or.mp hskip
    rw [Bool.not_eq_false] at hen
    refine .inr ⟨hen, hq, ?_⟩
    cases acc with
    | none => exact ⟨c.nsc, targetStep_holding T none c hen hq⟩
    | some m => exact targetStep_some T m c

/-- There is no target exactly where no enabled channel holds data (R65). -/
theorem computeTarget_eq_none_iff (T : Word) (m : Memory) :
    computeTarget T m = none ↔ ∀ c ∈ m, c.enabled = true → c.queue = [] := by
  induction m using List.reverseRecOn with
  | nil => simp
  | append_singleton m c ih =>
    rw [computeTarget_append, List.forall_mem_append, List.forall_mem_singleton, ← ih]
    rcases targetStep_cases T (computeTarget T m) c with ⟨hstep, hc⟩ | ⟨hen, hq, t, hstep⟩
    · rw [hstep]
      exact (and_iff_left hc).symm
    · rw [hstep]
      exact ⟨nofun, fun h => absurd (h.2 hen) hq⟩

/-- Settles O28. -/
theorem targetIsAFrontCounter : Obligations.TargetIsAFrontCounter := by
  unfold Obligations.TargetIsAFrontCounter
  intro T m
  refine ⟨computeTarget_eq_none_iff T m, fun t => computeTarget_origin, fun last hskip => ?_,
    fun last hen hq => ⟨fun hnone => ?_, fun t ht => ?_⟩⟩
  · rw [computeTarget_append, targetStep_skip _ _ _ hskip]
  · rw [computeTarget_append, targetStep_holding _ _ _ hen hq, hnone]
  · rw [computeTarget_append, targetStep_holding _ _ _ hen hq, ht]
    simp only [newer_eq_true_iff]

/-- Where the target of the channels before is not more than the threshold above the NSC of an enabled channel that holds
data, the new target is as great as both. -/
theorem le_targetStep {T t : Word} {acc : Option Word} {c : Channel} (hen : c.enabled = true) (hq : c.queue ≠ [])
    (hnear : ∀ old, acc = some old → old.toNat - c.nsc.toNat ≤ T.toNat) (h : targetStep T acc c = some t) :
    c.nsc.toNat ≤ t.toNat ∧ ∀ old, acc = some old → old.toNat ≤ t.toNat := by
  rw [targetStep_holding _ _ _ hen hq] at h
  cases acc with
  | none =>
    cases h
    exact ⟨le_rfl, nofun⟩
  | some old =>
    have hold := hnear old rfl
    simp only [newer_eq_true_iff, Option.some.injEq, forall_eq'] at h ⊢
    split at h
    · cases h
      omega
    · cases h
      omega

/-- Settles O29, channel by channel in the order of the fold. -/
theorem targetIsTheLargestWithoutWrap : Obligations.TargetIsTheLargestWithoutWrap := by
  unfold Obligations.TargetIsTheLargestWithoutWrap
  intro T m
  induction m using List.reverseRecOn with
  | nil => simp
  | append_singleton m last ih =>
    intro t hclose ht c hc hen hq
    have hbefore : ∀ old, computeTarget T m = some old → c ∈ m → c.nsc.toNat ≤ old.toNat := fun old hold hc =>
      ih old (fun c hc d hd => hclose c (List.mem_append_left _ hc) d (List.mem_append_left _ hd)) hold c hc hen hq
    rw [computeTarget_append] at ht
    by_cases hlast : last.enabled = true ∧ last.queue ≠ []
    · obtain ⟨hlastEn, hlastQ⟩ := hlast
      have hnear : ∀ old, computeTarget T m = some old → old.toNat - last.nsc.toNat ≤ T.toNat := by
        intro old hold
        obtain ⟨d, hd, hden, hdq, rfl⟩ := computeTarget_origin hold
        exact hclose d (List.mem_append_left _ hd) last (by simp) hden hlastEn hdq hlastQ
      obtain ⟨hle, hleOld⟩ := le_targetStep hlastEn hlastQ hnear ht
      rcases List.mem_append.mp hc with hc | hc
      · cases hold : computeTarget T m with
        | none => exact absurd ((computeTarget_eq_none_iff T m).mp hold c hc hen) hq
        | some old => exact (hbefore old hold hc).trans (hleOld old hold)
      · exact List.mem_singleton.mp hc ▸ hle
    · have hskip : last.enabled = false ∨ last.queue = [] := by
        rwa [not_and_or, Bool.not_eq_true, not_not] at hlast
      rw [targetStep_skip _ _ _ hskip] at ht
      rcases List.mem_append.mp hc with hc | hc
      · exact hbefore t ht hc
      · exact absurd ⟨hen, hq⟩ (List.mem_singleton.mp hc ▸ hlast)

/-! ### The alignment pass -/

theorem allAt_iff (t : Word) (m : Memory) : allAt t m = true ↔ ∀ c ∈ m, c.enabled = true → HasFront t c := by
  simp only [allAt, List.all_eq_true, Bool.or_eq_true, Bool.not_eq_true', ← Bool.not_eq_true, ← imp_iff_not_or,
    Channel.frontIs_iff]
  rfl

theorem pruneEnabled_of_enabled {T t : Word} {c : Channel} (h : c.enabled = true) :
    pruneEnabled T t c = c.prune T t := if_pos h

theorem alignPass_of_none {T : Word} {m : Memory} (h : computeTarget T m = none) : alignPass T m = (m, false) := by
  simp only [alignPass, h]

theorem alignPass_of_some {T t : Word} {m : Memory} (h : computeTarget T m = some t) :
    alignPass T m = (pruneAll T t m, allAt t (pruneAll T t m)) := by
  simp only [alignPass, h]

/-- A channel of the storage after the prune, absent ones included. -/
theorem Memory.chan_pruneAll (T t : Word) (m : Memory) (j : Nat) :
    Memory.chan (pruneAll T t m) j = pruneEnabled T t (Memory.chan m j) :=
  Memory.chan_map_of_absent m j (pruneEnabled_of_disabled _ _ _ rfl)

/-- NSC after a prune: it follows the front where an entry left, and stays where none did (R17, R54). -/
theorem Channel.prune_nsc_eq (T t : Word) (c : Channel) :
    (c.prune T t).nsc = if (c.prune T t).queue = c.queue then c.nsc else frontSeq (c.prune T t).queue := by
  split
  · next h => rw [Channel.prune_eq_self_of_queue_eq h]
  · next h => exact Channel.prune_nsc_of_queue_ne h

/-- Settles O30. -/
theorem alignPassReportsAlignment : Obligations.AlignPassReportsAlignment := by
  unfold Obligations.AlignPassReportsAlignment
  intro T m
  refine ⟨?_, alignPass_of_none, fun t ht => ?_⟩
  · cases ht : computeTarget T m with
    | none => simp [alignPass_of_none ht]
    | some t =>
      rw [alignPass_of_some ht, allAt_iff]
      simp only [Option.some.injEq, exists_eq_left']
      rfl
  · rw [alignPass_of_some ht]
    refine ⟨List.length_map _, fun j => ⟨fun hdis => ?_, fun hen => ?_⟩⟩
    · rw [Memory.chan_pruneAll, pruneEnabled_of_disabled _ _ _ hdis]
    · rw [Memory.chan_pruneAll, pruneEnabled_of_enabled hen]
      exact ⟨Channel.prune_queue _ _ _, (Channel.prune_enabled _ _ _).trans hen, Channel.prune_maxSize _ _ _,
        Channel.prune_nsc_eq _ _ _⟩

/-! ### Disabled channels -/

/-- The storage without its disabled channels. -/
abbrev enabledOnly (m : Memory) : Memory := m.filter Channel.enabled

theorem computeTarget_enabledOnly (T : Word) (m : Memory) : computeTarget T (enabledOnly m) = computeTarget T m := by
  unfold computeTarget
  rw [List.foldl_filter]
  congr 1
  funext acc c
  cases hc : c.enabled with
  | false => exact (targetStep_skip T acc c (.inl hc)).symm
  | true => rfl

/-- A change that keeps the enables is made on the enabled channels alone. -/
theorem map_enabledOnly (m : Memory) {f : Channel → Channel} (hf : ∀ c, (f c).enabled = c.enabled) :
    (enabledOnly m).map f = enabledOnly (m.map f) := by
  have hcomp : Channel.enabled ∘ f = Channel.enabled := funext hf
  unfold enabledOnly
  rw [List.filter_map, hcomp]

theorem allAt_enabledOnly (t : Word) (m : Memory) : allAt t (enabledOnly m) = allAt t m := by
  rw [Bool.eq_iff_iff, allAt_iff, allAt_iff]
  simp only [List.mem_filter, and_imp]
  exact forall₂_congr fun c _ => ⟨fun h hen => h hen hen, fun h hen _ => h hen⟩

theorem allVerdictsOk_enabledOnly (T span : Word) (m : Memory) :
    AllVerdictsOk T span (enabledOnly m) ↔ AllVerdictsOk T span m := by
  simp only [AllVerdictsOk, List.mem_filter, and_imp]
  exact forall₂_congr fun c _ => ⟨fun h hen => h hen hen, fun h hen _ => h hen⟩

theorem someVerdictRejected_enabledOnly (T span : Word) (m : Memory) :
    SomeVerdictRejected T span (enabledOnly m) ↔ SomeVerdictRejected T span m := by
  simp only [SomeVerdictRejected, List.mem_filter]
  exact exists_congr fun c => ⟨fun ⟨⟨hc, _⟩, h⟩ => ⟨hc, h⟩, fun ⟨hc, h⟩ => ⟨⟨hc, h.1⟩, h⟩⟩

theorem alignPass_enabledOnly (T : Word) (m : Memory) :
    alignPass T (enabledOnly m) = (enabledOnly (alignPass T m).1, (alignPass T m).2) := by
  cases ht : computeTarget T m with
  | none => rw [alignPass_of_none ht, alignPass_of_none ((computeTarget_enabledOnly T m).trans ht)]
  | some t =>
    rw [alignPass_of_some ht, alignPass_of_some ((computeTarget_enabledOnly T m).trans ht), pruneAll,
      map_enabledOnly m (pruneEnabled_enabled T t), allAt_enabledOnly]
    rfl

theorem cpiPass_enabledOnly (T span : Word) (m : Memory) :
    cpiPass T span (enabledOnly m) = enabledOnly (cpiPass T span m) :=
  map_enabledOnly m fun c => (cpiChannel_spec T span c).1

theorem cpiAllOk_enabledOnly (T span : Word) (m : Memory) :
    cpiAllOk T span (enabledOnly m) = cpiAllOk T span m := by
  rw [Bool.eq_iff_iff, cpiAllOk_iff, cpiAllOk_iff, allVerdictsOk_enabledOnly]

theorem cpiAnyRejected_enabledOnly (T span : Word) (m : Memory) :
    cpiAnyRejected T span (enabledOnly m) = cpiAnyRejected T span m := by
  rw [Bool.eq_iff_iff, cpiAnyRejected_iff, cpiAnyRejected_iff, someVerdictRejected_enabledOnly]

theorem cpiAttempt_enabledOnly (T span : Word) (m : Memory) :
    cpiAttempt T span (enabledOnly m) = (enabledOnly (cpiAttempt T span m).1, (cpiAttempt T span m).2) := by
  unfold cpiAttempt
  rw [alignPass_enabledOnly]
  rcases alignPass T m with ⟨m1, aligned⟩
  cases aligned with
  | false => rfl
  | true => simp only [if_true, cpiPass_enabledOnly, cpiAllOk_enabledOnly, cpiAnyRejected_enabledOnly]

theorem cpiNotify_enabledOnly (T span : Word) (m : Memory) :
    cpiNotify T span (enabledOnly m) = (enabledOnly (cpiNotify T span m).1, (cpiNotify T span m).2) := by
  unfold cpiNotify
  rw [cpiAttempt_enabledOnly]
  rcases cpiAttempt T span m with ⟨m1, stop | dispatch | retry⟩
  · rfl
  · rfl
  · simp only [cpiAttempt_enabledOnly]
    rcases cpiAttempt T span m1 with ⟨m2, stop | dispatch | retry⟩ <;> rfl

theorem notifyMemory_enabledOnly (cfg : Config) (span : Word) (m : Memory) :
    notifyMemory cfg span (enabledOnly m) =
      (enabledOnly (notifyMemory cfg span m).1, (notifyMemory cfg span m).2) := by
  unfold notifyMemory
  cases cfg.mode with
  | align => exact alignPass_enabledOnly _ m
  | cpi => exact cpiNotify_enabledOnly _ span m

/-- Settles O32. -/
theorem disabledChannelsHaveNoInfluence : Obligations.DisabledChannelsHaveNoInfluence := by
  unfold Obligations.DisabledChannelsHaveNoInfluence
  intro cfg span m
  have hfilter := notifyMemory_enabledOnly cfg span m
  refine ⟨by rw [hfilter], by rw [hfilter], fun i hdis => ?_⟩
  obtain ⟨-, -, -, hsame⟩ := (notifyMemory_pruned cfg span m).chan i
  exact hsame hdis

/-! ### The check of one channel -/

theorem boundary_eq_none_iff (q : List Entry) (span : Nat) :
    boundary q span = none ↔ ∀ k, 1 ≤ k → k ≤ span → q[k]?.map Entry.code = q[k - 1]?.map Entry.code := by
  unfold boundary
  rw [List.find?_eq_none]
  simp only [List.mem_range'_1, codeChangesAt, decide_eq_true_eq, not_not, and_imp]
  exact forall₂_congr fun k hk => ⟨fun h hspan => h (by omega), fun h hspan => h (by omega)⟩

section
variable {T span : Word} {c : Channel}

theorem cpiCheck_short (h : c.queue.length ≤ span.toNat) : cpiCheck T span c = (.short, c) := if_pos h

theorem cpiCheck_noBoundary (hlen : span.toNat < c.queue.length) (h : boundary c.queue span.toNat = none) :
    cpiCheck T span c = (.noBoundary, c) := by
  simp only [cpiCheck, hlen.not_ge, if_false, h]

theorem cpiCheck_ok (hlen : span.toNat < c.queue.length) (h : boundary c.queue span.toNat = some span.toNat) :
    cpiCheck T span c = (.ok, c) := by
  simp only [cpiCheck, hlen.not_ge, if_false, h, if_true]

theorem cpiCheck_rejected {p : Nat} {e : Entry} (hlen : span.toNat < c.queue.length)
    (h : boundary c.queue span.toNat = some p) (hp : p < span.toNat) (he : c.queue[p]? = some e) :
    cpiCheck T span c = (.rejected, c.prune T e.seq) := by
  simp only [cpiCheck, hlen.not_ge, if_false, h, hp.ne, he]

/-- The verdict is OK only where more than the span is held and the code first changes right behind it (R74, R75). -/
theorem cpiCheck_eq_ok (h : (cpiCheck T span c).1 = .ok) :
    span.toNat < c.queue.length ∧ boundary c.queue span.toNat = some span.toNat := by
  unfold cpiCheck at h
  split at h
  · cases h
  · next hlen =>
    split at h
    · cases h
    · next p hp =>
      split at h
      · next hspan => exact ⟨Nat.lt_of_not_le hlen, hspan ▸ hp⟩
      · split at h <;> cases h

end

/-- Settles O38, by what `boundary` finds. -/
theorem cpiCheckFindsTheFirstChange : Obligations.CpiCheckFindsTheFirstChange := by
  unfold Obligations.CpiCheckFindsTheFirstChange
  intro T span c
  refine ⟨cpiCheck_short, fun hlen => ⟨fun hsame => ?_, fun p hp hspan hchange hbefore => ?_⟩⟩
  · exact cpiCheck_noBoundary hlen ((boundary_eq_none_iff _ _).mpr hsame)
  · have hboundary : boundary c.queue span.toNat = some p :=
      (boundary_eq_some_iff _ _ _).mpr ⟨hp, hspan, hchange, hbefore⟩
    exact ⟨fun heq => cpiCheck_ok hlen (heq ▸ hboundary), fun hlt e he => cpiCheck_rejected hlen hboundary hlt he⟩

/-- Codes that never change up to position n are all the first one. -/
theorem codes_eq_first {q : List Entry} {n : Nat}
    (h : ∀ k, 1 ≤ k → k < n → q[k]?.map Entry.code = q[k - 1]?.map Entry.code) :
    ∀ k, k < n → q[k]?.map Entry.code = q[0]?.map Entry.code := by
  intro k hk
  induction k with
  | zero => rfl
  | succ k ih => exact (h (k + 1) (by omega) hk).trans (ih (by omega))

theorem dropWhile_eq_drop {p : Entry → Bool} {q : List Entry} {n : Nat} {e : Entry} (he : q[n]? = some e)
    (hstop : p e = false) (hbefore : ∀ k e', k < n → q[k]? = some e' → p e' = true) : q.dropWhile p = q.drop n := by
  induction q generalizing n with
  | nil => simp at he
  | cons x q ih =>
    cases n with
    | zero =>
      obtain rfl : x = e := by simpa using he
      simp [hstop]
    | succ n =>
      have hx : p x = true := hbefore 0 x (by omega) rfl
      rw [List.dropWhile_cons_of_pos hx, List.drop_succ_cons]
      exact ih (by simpa using he) fun k e' hk hk' => hbefore (k + 1) e' (by omega) (by simpa using hk')

theorem drop_suffix_dropWhile {p : Entry → Bool} {q : List Entry} {n : Nat} {e : Entry} (he : q[n]? = some e)
    (hstop : p e = false) : q.drop n <:+ q.dropWhile p := by
  induction q generalizing n with
  | nil => simp
  | cons x q ih =>
    by_cases hx : p x = true
    · cases n with
      | zero =>
        obtain rfl : x = e := by simpa using he
        exact nomatch hx.symm.trans hstop
      | succ n =>
        rw [List.dropWhile_cons_of_pos hx, List.drop_succ_cons]
        exact ih (by simpa using he)
    · rw [List.dropWhile_cons_of_neg hx]
      exact List.drop_suffix _ _

/-- Settles O39: the entry at p is not older than its own counter, so the prune stops there at the latest. -/
theorem rejectionDropsTheIncompleteRun : Obligations.RejectionDropsTheIncompleteRun := by
  unfold Obligations.RejectionDropsTheIncompleteRun
  intro T c p e he
  have hstop : older T e.seq e.seq = false := older_self T e.seq
  rw [Channel.prune_queue]
  refine ⟨fun hless => dropWhile_eq_drop he hstop fun k e' hk he' => ?_, drop_suffix_dropWhile he hstop⟩
  exact (older_eq_true_iff _ _ _).mpr (.inl (hless k e' hk he'))

/-! ### The notification of CPI mode -/

theorem notifyMemory_align {cfg : Config} (h : cfg.mode = .align) (span : Word) (m : Memory) :
    notifyMemory cfg span m = alignPass cfg.wrapThreshold m := by
  simp only [notifyMemory, h]

theorem notifyMemory_cpi {cfg : Config} (h : cfg.mode = .cpi) (span : Word) (m : Memory) :
    notifyMemory cfg span m = cpiNotify cfg.wrapThreshold span m := by
  simp only [notifyMemory, h]

section
variable {T span : Word} {m m1 m2 : Memory}

theorem cpiNotify_of_stop (h : cpiAttempt T span m = (m1, .stop)) : cpiNotify T span m = (m1, false) := by
  simp only [cpiNotify, h]

theorem cpiNotify_of_dispatch (h : cpiAttempt T span m = (m1, .dispatch)) : cpiNotify T span m = (m1, true) := by
  simp only [cpiNotify, h]

theorem cpiNotify_of_retry {a : Attempt} (h : cpiAttempt T span m = (m1, .retry))
    (h2 : cpiAttempt T span m1 = (m2, a)) : cpiNotify T span m = (m2, decide (a = .dispatch)) := by
  cases a <;> simp [cpiNotify, h, h2]

/-- `CpiPass` leaves every enabled channel as its check leaves it (R77). -/
theorem cpiPass_eq_checkedEvery (T span : Word) (m : Memory) : cpiPass T span m = checkedEvery T span m := rfl

/-- How one pass ends, from its alignment and its verdicts (R78). -/
theorem cpiAttempt_of_not_aligned (h : alignPass T m = (m1, false)) : cpiAttempt T span m = (m1, .stop) := by
  rcases cpiAttempt_cases T span m m1 false h with ⟨-, ha⟩ | ⟨hfalse, -⟩ | ⟨hfalse, -⟩ | ⟨hfalse, -⟩
  · exact ha
  · cases hfalse
  · cases hfalse
  · cases hfalse

theorem cpiAttempt_of_ok (h : alignPass T m = (m1, true)) (hok : AllVerdictsOk T span m1) :
    cpiAttempt T span m = (m1, .dispatch) := by
  rcases cpiAttempt_cases T span m m1 true h with ⟨hfalse, -⟩ | ⟨-, -, ha⟩ | ⟨-, hrej, -⟩ | ⟨-, hnot, -⟩
  · cases hfalse
  · exact ha
  · exact absurd hrej (allVerdictsOk_not_rejected hok)
  · exact absurd hok hnot

theorem cpiAttempt_of_rejected (h : alignPass T m = (m1, true)) (hrej : SomeVerdictRejected T span m1) :
    cpiAttempt T span m = (checkedEvery T span m1, .retry) := by
  rcases cpiAttempt_cases T span m m1 true h with ⟨hfalse, -⟩ | ⟨-, hok, -⟩ | ⟨-, -, ha⟩ | ⟨-, -, hnot, -⟩
  · cases hfalse
  · exact absurd hrej (allVerdictsOk_not_rejected hok)
  · exact ha
  · exact absurd hrej hnot

theorem cpiAttempt_of_neither (h : alignPass T m = (m1, true)) (hok : ¬ AllVerdictsOk T span m1)
    (hrej : ¬ SomeVerdictRejected T span m1) : cpiAttempt T span m = (m1, .stop) := by
  rcases cpiAttempt_cases T span m m1 true h with ⟨hfalse, -⟩ | ⟨-, hok', -⟩ | ⟨-, hrej', -⟩ | ⟨-, -, -, ha⟩
  · cases hfalse
  · exact absurd hok' hok
  · exact absurd hrej' hrej
  · exact ha

/-- A pass that aligns without every verdict OK does not dispatch, and leaves the storage as all checks leave it. -/
theorem cpiAttempt_of_not_ok (h : alignPass T m = (m1, true)) (hok : ¬ AllVerdictsOk T span m1) :
    ∃ a, a ≠ .dispatch ∧ cpiAttempt T span m = (checkedEvery T span m1, a) := by
  by_cases hrej : SomeVerdictRejected T span m1
  · exact ⟨.retry, by decide, cpiAttempt_of_rejected h hrej⟩
  · refine ⟨.stop, by decide, ?_⟩
    rw [← cpiPass_eq_checkedEvery, cpiPass_of_not_rejected hrej]
    exact cpiAttempt_of_neither h hok hrej

end

/-- Settles O40: the first pass, and after a rejection the second, by how each ends. -/
theorem cpiNotifyChecksAllAndRetriesOnce : Obligations.CpiNotifyChecksAllAndRetriesOnce := by
  unfold Obligations.CpiNotifyChecksAllAndRetriesOnce
  intro cfg span m m1 aligned hmode halign
  rw [notifyMemory_cpi hmode]
  refine ⟨?_, ?_, ?_, ?_⟩
  · rintro rfl
    exact cpiNotify_of_stop (cpiAttempt_of_not_aligned halign)
  · rintro rfl hok
    exact cpiNotify_of_dispatch (cpiAttempt_of_ok halign hok)
  · rintro rfl hok hrej
    exact cpiNotify_of_stop (cpiAttempt_of_neither halign hok hrej)
  · rintro rfl hrej m2 again hagain
    have hretry := cpiAttempt_of_rejected halign hrej
    refine ⟨?_, ?_, ?_⟩
    · rintro rfl
      exact cpiNotify_of_retry hretry (cpiAttempt_of_not_aligned hagain)
    · rintro rfl hok
      exact cpiNotify_of_retry hretry (cpiAttempt_of_ok hagain hok)
    · rintro rfl hok
      obtain ⟨a, ha, hsecond⟩ := cpiAttempt_of_not_ok hagain hok
      rw [cpiNotify_of_retry hretry hsecond, decide_eq_false ha]

end Sys2Proof.Machine
end

section
/-! When an ADD_DATA dispatches (41_alignment.md sections 2 and 3; 42_cpi.md sections 2 and 4): what the storage then shows,
what is enough for it, and the bound that prevents it. -/

namespace Sys2Proof.Machine

/-! ### What a dispatch shows -/

/-- Every enabled channel has the counter t in front (41_alignment.md section 1). -/
def AlignedAt (t : Word) (m : Memory) : Prop := ∀ c ∈ m, c.enabled = true → HasFront t c

theorem alignPass_aligned {T : Word} {m m' : Memory} (h : alignPass T m = (m', true)) : ∃ t, AlignedAt t m' := by
  rcases alignPass_cases T m with ⟨-, hp⟩ | ⟨t, -, hp⟩
  · rw [hp] at h
    cases h
  · obtain ⟨rfl, hall⟩ := Prod.mk.inj (hp.symm.trans h)
    exact ⟨t, (allAt_iff _ _).mp hall⟩

/-- A pass dispatches only where it aligns and every verdict is OK (R78). -/
theorem cpiAttempt_dispatch {T span : Word} {m m' : Memory} (h : cpiAttempt T span m = (m', .dispatch)) :
    (∃ t, AlignedAt t m') ∧ AllVerdictsOk T span m' := by
  rcases halign : alignPass T m with ⟨m1, aligned⟩
  rcases cpiAttempt_cases T span m m1 aligned halign with ⟨-, ha⟩ | ⟨rfl, hok, ha⟩ | ⟨-, -, ha⟩ | ⟨-, -, -, ha⟩
  · cases ha.symm.trans h
  · cases ha.symm.trans h
    exact ⟨alignPass_aligned halign, hok⟩
  · cases ha.symm.trans h
  · cases ha.symm.trans h

theorem cpiNotify_dispatch {T span : Word} {m m' : Memory} (h : cpiNotify T span m = (m', true)) :
    (∃ t, AlignedAt t m') ∧ AllVerdictsOk T span m' := by
  rcases hfirst : cpiAttempt T span m with ⟨m1, stop | dispatch | retry⟩
  · cases (cpiNotify_of_stop hfirst).symm.trans h
  · cases (cpiNotify_of_dispatch hfirst).symm.trans h
    exact cpiAttempt_dispatch hfirst
  · rcases hsecond : cpiAttempt T span m1 with ⟨m2, a⟩
    obtain ⟨rfl, ha⟩ := Prod.mk.inj ((cpiNotify_of_retry hfirst hsecond).symm.trans h)
    exact cpiAttempt_dispatch (of_decide_eq_true ha ▸ hsecond)

theorem notifyMemory_aligned {cfg : Config} {span : Word} {m m' : Memory} (h : notifyMemory cfg span m = (m', true)) :
    ∃ t, AlignedAt t m' := by
  cases hmode : cfg.mode with
  | align => exact alignPass_aligned ((notifyMemory_align hmode span m).symm.trans h)
  | cpi => exact (cpiNotify_dispatch ((notifyMemory_cpi hmode span m).symm.trans h)).1

/-- An ADD_DATA that takes the block from IDLE to DISPATCH: its channel is enabled, and the notification of the storage with
the message dispatches. -/
theorem exec_addData_dispatch {s t : State} {ch : ChanIndex} {seq code : Word} {payload : Payload}
    (hidle : s.arch.phase = .idle) (h : exec (.addData ch seq code payload) s = .next t)
    (hdispatch : t.arch.phase = .dispatch) :
    (s.chan ch).enabled = true ∧ t = s.acceptMessage ch ⟨seq, code, payload⟩ ∧
      ∃ m, notifyMemory s.cfg s.arch.cpiSpan (s.withMessage ch ⟨seq, code, payload⟩) = (m, true) ∧
        t.arch = (s.arch.withChans m).dispatchEnter (Mode.kind s.cfg.mode) := by
  have hne : s.arch.phase ≠ .dispatch := by simp [hidle]
  rcases State.guarded_next h with ⟨e, -, rfl⟩ | ⟨-, rfl⟩
  · exact absurd hdispatch hne
  cases hen : (s.chan ch).enabled with
  | false =>
    rw [hen] at hdispatch
    exact absurd hdispatch hne
  | true =>
    rw [hen, if_pos rfl] at hdispatch
    refine ⟨rfl, if_pos rfl, ?_⟩
    rcases hnotify : notifyMemory s.cfg s.arch.cpiSpan (s.withMessage ch ⟨seq, code, payload⟩) with ⟨m, dispatches⟩
    cases dispatches with
    | false =>
      rw [State.acceptMessage_of_no_dispatch hidle hnotify] at hdispatch
      exact absurd hdispatch hne
    | true =>
      refine ⟨m, rfl, ?_⟩
      rw [if_pos rfl, State.acceptMessage_of_dispatch hnotify]
      rfl

theorem Memory.chan_mem {m : Memory} {i : Nat} (h : i < m.length) : Memory.chan m i ∈ m := by
  simp [Memory.chan, h]

/-- Every channel of the storage stands at a place of it. -/
theorem Memory.exists_chan_of_mem {m : Memory} {c : Channel} (h : c ∈ m) : ∃ i, i < m.length ∧ Memory.chan m i = c := by
  obtain ⟨i, hi, rfl⟩ := List.getElem_of_mem h
  exact ⟨i, hi, by simp [Memory.chan, hi]⟩

theorem Memory.chan_mem_of_enabled {m : Memory} {i : Nat} (h : (Memory.chan m i).enabled = true) :
    Memory.chan m i ∈ m :=
  Memory.chan_mem (Memory.lt_length_of_enabled h)

/-- Settles O33: the storage of a dispatch is aligned, and in CPI mode every verdict is OK. -/
theorem dispatchShowsACompleteSet : Obligations.DispatchShowsACompleteSet := by
  unfold Obligations.DispatchShowsACompleteSet
  intro s t ch seq code payload hidle h hdispatch
  obtain ⟨hen, ht, m, hnotify, harch⟩ := exec_addData_dispatch hidle h hdispatch
  have hen' : (Memory.chan t.arch.chans ch.toNat).enabled = true := by
    rw [ht, State.acceptMessage_enabled]
    exact hen
  refine ⟨⟨_, Memory.chan_mem_of_enabled hen', hen'⟩, ?_, fun hmode => ?_, fun hmode => ⟨?_, fun c hc hcen => ?_⟩⟩
  · rw [harch]
    exact notifyMemory_aligned hnotify
  · rw [harch, hmode]
    rfl
  · rw [harch, hmode]
    rfl
  · rw [harch] at hc
    obtain ⟨-, hok⟩ := cpiNotify_dispatch ((notifyMemory_cpi hmode _ _).symm.trans hnotify)
    obtain ⟨hlen, hboundary⟩ := cpiCheck_eq_ok (hok c hc hcen)
    obtain ⟨-, -, hchange, hsame⟩ := (boundary_eq_some_iff _ _ _).mp hboundary
    exact ⟨hlen, codes_eq_first hsame, hchange⟩

/-! ### What is enough for a dispatch -/

section
variable {T t : Word} {m : Memory}

/-- An aligned storage with an enabled channel has the common counter as its target. -/
theorem computeTarget_of_aligned (hnsc : ∀ c ∈ m, c.nsc = frontSeq c.queue) (hex : ∃ c ∈ m, c.enabled = true)
    (haligned : AlignedAt t m) : computeTarget T m = some t := by
  cases htarget : computeTarget T m with
  | none =>
    obtain ⟨c, hc, hen⟩ := hex
    obtain ⟨e, q, hq, -⟩ := haligned c hc hen
    have hempty := (computeTarget_eq_none_iff T m).mp htarget c hc hen
    exact nomatch hq.symm.trans hempty
  | some t' =>
    obtain ⟨c, hc, hen, -, rfl⟩ := computeTarget_origin htarget
    obtain ⟨e, q, hq, rfl⟩ := haligned c hc hen
    rw [hnsc c hc, hq, frontSeq_cons]

/-- No front of an aligned storage is older than the common counter. -/
theorem pruneAll_of_aligned (haligned : AlignedAt t m) : pruneAll T t m = m := by
  have hid : ∀ c ∈ m, pruneEnabled T t c = c := by
    intro c hc
    cases hen : c.enabled with
    | false => exact pruneEnabled_of_disabled _ _ _ hen
    | true =>
      obtain ⟨e, q, hq, hseq⟩ := haligned c hc hen
      rw [pruneEnabled_of_enabled hen]
      refine Channel.prune_eq_self fun e' q' hq' => ?_
      obtain ⟨rfl, -⟩ := List.cons.inj (hq.symm.trans hq')
      rw [hseq, older_self]
  rw [pruneAll, List.map_congr_left hid, List.map_id']

theorem alignPass_of_aligned (hnsc : ∀ c ∈ m, c.nsc = frontSeq c.queue) (hex : ∃ c ∈ m, c.enabled = true)
    (haligned : AlignedAt t m) : alignPass T m = (m, true) := by
  rw [alignPass_of_some (computeTarget_of_aligned hnsc hex haligned), pruneAll_of_aligned haligned,
    (allAt_iff t m).mpr haligned]

end

/-- The verdict of a channel that starts with a complete CPI is OK (R74 to R76). -/
theorem cpiCheck_of_completeCpi {T span : Word} {c : Channel} (hspan : span ≠ 0) (h : HoldsCompleteCpi span c) :
    cpiCheck T span c = (.ok, c) := by
  obtain ⟨hlen, hsame, hchange⟩ := h
  have hpos : 0 < span.toNat := Nat.pos_of_ne_zero fun h => hspan (BitVec.eq_of_toNat_eq h)
  refine cpiCheck_ok hlen ((boundary_eq_some_iff _ _ _).mpr ⟨hpos, le_rfl, ?_, fun k hk hlt => ?_⟩)
  · rw [hsame (span.toNat - 1) (by omega)]
    exact hchange
  · exact (hsame k hlt).trans (hsame (k - 1) (by omega)).symm

/-- A complete set is dispatched by the notification, and nothing of it is pruned. -/
theorem notifyMemory_of_completeSet {cfg : Config} {span t : Word} {m : Memory}
    (hnsc : ∀ c ∈ m, c.nsc = frontSeq c.queue) (hex : ∃ c ∈ m, c.enabled = true) (haligned : AlignedAt t m)
    (hcpi : cfg.mode = .cpi → span ≠ 0 ∧ ∀ c ∈ m, c.enabled = true → HoldsCompleteCpi span c) :
    notifyMemory cfg span m = (m, true) := by
  have halign : alignPass cfg.wrapThreshold m = (m, true) := alignPass_of_aligned hnsc hex haligned
  cases hmode : cfg.mode with
  | align => rw [notifyMemory_align hmode, halign]
  | cpi =>
    obtain ⟨hspan, hcomplete⟩ := hcpi hmode
    rw [notifyMemory_cpi hmode]
    refine cpiNotify_of_dispatch (cpiAttempt_of_ok halign fun c hc hen => ?_)
    rw [cpiCheck_of_completeCpi hspan (hcomplete c hc hen)]

/-- An ADD_DATA that makes the set complete dispatches it at once. -/
theorem exec_addData_of_completeSet {s : State} {ch : ChanIndex} {seq code : Word} {payload : Payload} {t : Word}
    (hcur : s.cur = .producer) (hwf : Memory.wf s.cfg s.arch.chans = true) (hch : ch.toNat < s.cfg.nChannels)
    (hen : (s.chan ch).enabled = true) (haligned : AlignedAt t (s.withMessage ch ⟨seq, code, payload⟩))
    (hcpi : s.cfg.mode = .cpi → s.arch.cpiSpan ≠ 0 ∧
      ∀ c ∈ s.withMessage ch ⟨seq, code, payload⟩, c.enabled = true → HoldsCompleteCpi s.arch.cpiSpan c) :
    exec (.addData ch seq code payload) s = .next (s.enterDispatch (.addData ch seq code payload)
      ((s.arch.withChans (s.withMessage ch ⟨seq, code, payload⟩)).dispatchEnter (Mode.kind s.cfg.mode))) := by
  obtain ⟨-, hchans⟩ := (Memory.wf_iff _ _).mp (State.withMessage_wf ⟨seq, code, payload⟩ hen hwf)
  have hnsc : ∀ c ∈ s.withMessage ch ⟨seq, code, payload⟩, c.nsc = frontSeq c.queue := fun c hc =>
    ((Channel.wf_iff _ _).mp (hchans c hc)).2.1
  have hen' := (s.withMessage_enabled ch ⟨seq, code, payload⟩ ch.toNat).trans hen
  have hex : ∃ c ∈ s.withMessage ch ⟨seq, code, payload⟩, c.enabled = true :=
    ⟨_, Memory.chan_mem_of_enabled hen', hen'⟩
  rw [exec_addData_of_enabled hcur hch hen,
    State.acceptMessage_of_dispatch (notifyMemory_of_completeSet hnsc hex haligned hcpi)]

/-- Settles O34. -/
theorem completeSetIsDispatched : Obligations.CompleteSetIsDispatched := by
  unfold Obligations.CompleteSetIsDispatched
  intro s ch seq code payload m front hcur _ hwf hspan hch hen hm hfront hcomplete
  subst hm
  have hcpi : s.cfg.mode = .cpi → s.arch.cpiSpan ≠ 0 := fun hmode => by
    simpa [spanWf, hmode, spanLegal] using hspan
  rw [exec_addData_of_completeSet hcur hwf hch hen hfront fun hmode => ⟨hcpi hmode, hcomplete hmode⟩, Mode.kind_eq]
  rfl

theorem Channel.accept_queue_ne_nil {cfg : Config} {c : Channel} (e : Entry) (h : sizeLegal cfg c.maxSize = true) :
    (c.accept e).queue ≠ [] := by
  have hmax : c.maxSize ≠ 0 := of_decide_eq_true (Bool.and_eq_true _ _ ▸ h).1
  obtain ⟨-, hlast, -⟩ := acceptKeepsTheNewMessage c e
  intro hempty
  simpa [hempty] using hlast hmax

/-- Settles O31: with one enabled channel the front of that channel is the common counter. -/
theorem oneEnabledChannelAlwaysDispatches : Obligations.OneEnabledChannelAlwaysDispatches := by
  unfold Obligations.OneEnabledChannelAlwaysDispatches
  intro s ch seq code payload hmode hwf hcur _ hch honly
  have hen : (s.chan ch).enabled = true := (honly ch.toNat).mpr rfl
  obtain ⟨hlen, hchans⟩ := (Memory.wf_iff _ _).mp hwf
  have haccept : Memory.chan (s.withMessage ch ⟨seq, code, payload⟩) ch.toNat =
      (s.chan ch).accept ⟨seq, code, payload⟩ := Memory.chan_update_self _ (hlen ▸ hch)
  obtain ⟨-, -, hsize, -⟩ := (Channel.wf_iff _ _).mp (hchans _ (Memory.chan_mem_of_enabled hen))
  obtain ⟨e, q, hq⟩ := List.exists_cons_of_ne_nil (Channel.accept_queue_ne_nil ⟨seq, code, payload⟩ hsize)
  have haligned : AlignedAt e.seq (s.withMessage ch ⟨seq, code, payload⟩) := by
    intro c hc hcen
    obtain ⟨j, -, rfl⟩ := Memory.exists_chan_of_mem hc
    rw [State.withMessage_enabled] at hcen
    rw [(honly j).mp hcen, haccept]
    exact ⟨e, q, hq, rfl⟩
  refine ⟨_, exec_addData_of_completeSet hcur hwf hch hen haligned fun hcpi => ?_, rfl, ?_, rfl, rfl, rfl⟩
  · exact nomatch hmode.symm.trans hcpi
  · rw [State.enterDispatch_arch, Arch.dispatchEnter_dkind, hmode]
    rfl

/-! ### A bound that prevents a dispatch -/

/-- Settles O41: a dispatch shows more than CPI_SPAN entries on the channel, and the invariant then says that its bound is
greater. -/
theorem smallBoundNeverDispatches : Obligations.SmallBoundNeverDispatches := by
  unfold Obligations.SmallBoundNeverDispatches
  intro i s t hinv hmode hsmall h hidle
  cases hdispatch : t.arch.phase with
  | idle => rfl
  | dispatch =>
    exfalso
    obtain ⟨ch, seq, code, payload, rfl, -, -⟩ := onlyAddDataDispatches i s t h hidle hdispatch
    obtain ⟨c, hc, hen, hbound⟩ := hsmall
    obtain ⟨j, -, rfl⟩ := Memory.exists_chan_of_mem hc
    obtain ⟨-, ht, -⟩ := exec_addData_dispatch hidle h hdispatch
    have hen' : (Memory.chan t.arch.chans j).enabled = true := by rw [ht, State.acceptMessage_enabled, hen]
    have hmax : (Memory.chan t.arch.chans j).maxSize = (Memory.chan s.arch.chans j).maxSize := by
      rw [ht, State.acceptMessage_maxSize]
    obtain ⟨-, -, -, hcpi⟩ := dispatchShowsACompleteSet s t ch seq code payload hidle h hdispatch
    obtain ⟨hheld, -⟩ := (hcpi hmode).2 _ (Memory.chan_mem_of_enabled hen') hen'
    obtain ⟨-, harch, -⟩ := (State.inv_iff t).mp ((effect_of_exec h).keeps_inv hinv)
    obtain ⟨hchans, -⟩ := (Arch.wf_iff _ _).mp harch
    obtain ⟨-, hwf⟩ := (Memory.wf_iff _ _).mp hchans
    obtain ⟨hlength, -⟩ := (Channel.wf_iff _ _).mp (hwf _ (Memory.chan_mem_of_enabled hen'))
    rw [hmax] at hlength
    have hle := BitVec.le_def.mp hbound
    omega

end Sys2Proof.Machine
end

section
/-! The status reads (43_status.md; 20_memory.md R34): the words they pack, and which architectural state they show. -/

namespace Sys2Proof.Machine

theorem dataResponse_eq (data : List Word) : dataResponse data = { rw := 0, data := data } := by
  have hrw : responseWord .ok 0 false false = 0 := by decide
  rw [dataResponse, hrw]

/-! ### The packed words -/

/-- The index of the channel stands above the two flags, so the packed word is their sum (R41). -/
theorem channelStatusWord_eq (ch : ChanIndex) (empty enabled : Bool) :
    channelStatusWord ch empty enabled =
      BitVec.ofNat 32 (ch.toNat * 65536 + (if empty then 2 else 0) + (if enabled then 1 else 0)) := by
  have hflags : ((bitWord empty <<< 1) ||| bitWord enabled).toNat =
      (if empty then 2 else 0) + (if enabled then 1 else 0) := by
    cases empty <;> cases enabled <;> decide
  have hsmall : (if empty then 2 else 0) + (if enabled then 1 else 0) < 2 ^ 16 := by
    cases empty <;> cases enabled <;> decide
  have hch : ch.toNat < 2 ^ 16 := ch.isLt
  have hindex : (ch.setWidth 32 <<< 16).toNat = ch.toNat <<< 16 := by
    rw [BitVec.toNat_shiftLeft, BitVec.toNat_setWidth, Nat.shiftLeft_eq, Nat.shiftLeft_eq]
    omega
  apply BitVec.eq_of_toNat_eq
  rw [channelStatusWord, BitVec.or_assoc, BitVec.toNat_or, hflags, hindex, ← Nat.shiftLeft_add_eq_or_of_lt hsmall,
    BitVec.toNat_ofNat, Nat.shiftLeft_eq]
  omega

theorem channelStatus_eq (s : State) (ch : ChanIndex) :
    channelStatus s.arch ch = [BitVec.ofNat 32 (s.queue ch.toNat).length, (s.chan ch).maxSize, (s.chan ch).nsc,
      BitVec.ofNat 32 (ch.toNat * 65536 + (if s.queue ch.toNat = [] then 2 else 0) +
        (if (s.chan ch).enabled then 1 else 0))] := by
  have hempty : (if (s.queue ch.toNat).isEmpty then 2 else 0) = if s.queue ch.toNat = [] then 2 else 0 := by
    cases s.queue ch.toNat <;> rfl
  rw [← hempty, ← channelStatusWord_eq]
  rfl

/-- DKIND, PHASE and MODE stand in separate bits, so the packed word is their sum (R41). -/
theorem globalStatusWord_eq (mode : Mode) (phase : Phase) (kind : DispatchKind) :
    globalStatusWord mode phase kind =
      BitVec.ofNat 32 ((match kind with | .none => 0 | .aligned => 4 | .cpi => 8) +
        (match phase with | .idle => 0 | .dispatch => 2) + (match mode with | .align => 0 | .cpi => 1)) := by
  cases mode <;> cases phase <;> cases kind <;> rfl

theorem globalStatus_eq (cfg : Config) (a : Arch) :
    globalStatus cfg a = [BitVec.ofNat 32 cfg.nChannels,
      BitVec.ofNat 32 ((match a.dkind with | .none => 0 | .aligned => 4 | .cpi => 8) +
        (match a.phase with | .idle => 0 | .dispatch => 2) + (match cfg.mode with | .align => 0 | .cpi => 1)),
      (match cfg.mode with | .align => 0 | .cpi => a.cpiSpan), cfg.maxSizeLimit, cfg.wrapThreshold] := by
  have hspan : (if cfg.mode = .cpi then a.cpiSpan else 0) = match cfg.mode with | .align => 0 | .cpi => a.cpiSpan := by
    cases cfg.mode <;> rfl
  rw [← globalStatusWord_eq, ← hspan]
  rfl

/-! ### The reads -/

section
variable {s : State}

/-- A status read may be issued on ports P and S, and on port C in a dispatch (R90). -/
theorem mayIssue_statusRead {op : Opcode} (hcur : s.cur ≠ .consumer ∨ s.arch.phase = .dispatch)
    (hop : op = .readChStatus ∨ op = .readGlobal) : MayIssue op s.cur s.arch.phase := by
  cases hport : s.cur with
  | producer => exact .inl ⟨rfl, by rcases hop with rfl | rfl <;> decide⟩
  | status => exact .inr (.inl ⟨rfl, by tauto⟩)
  | consumer => exact .inr (.inr ⟨rfl, hcur.resolve_left (not_not_intro hport), by tauto⟩)

theorem exec_readChStatus {ch : ChanIndex} (hcur : s.cur ≠ .consumer ∨ s.arch.phase = .dispatch)
    (hch : ch.toNat < s.cfg.nChannels) :
    exec (.readChStatus ch) s =
      .next (Answered s.afterRead { rw := 0, data := channelStatus s.statusView ch }) := by
  rw [← dataResponse_eq]
  exact State.guarded_of_channel (mayIssue_statusRead hcur (.inl rfl)) hch

theorem exec_readGlobal (hcur : s.cur ≠ .consumer ∨ s.arch.phase = .dispatch) :
    exec .readGlobal s = .next (Answered s.afterRead { rw := 0, data := globalStatus s.cfg s.statusView }) := by
  rw [← dataResponse_eq]
  exact State.guarded_of_permitted (mayIssue_statusRead hcur (.inr rfl))

theorem State.afterRead_of_not_relaxed (h : s.relaxed = false) : s.afterRead = s := by
  simp [State.afterRead, h]

theorem State.afterRead_of_relaxed (h : s.relaxed = true) : s.afterRead = { s with draws := s.draws + 1 } := by
  simp [State.afterRead, h]

theorem exec_readGlobal_exact {data : List Word} (hcur : s.cur ≠ .consumer ∨ s.arch.phase = .dispatch)
    (hrelaxed : s.relaxed = false) (hdata : globalStatus s.cfg s.arch = data) :
    exec .readGlobal s = .next (Answered s { rw := 0, data := data }) := by
  rw [exec_readGlobal hcur, State.afterRead_of_not_relaxed hrelaxed, State.statusView_of_not_relaxed hrelaxed, hdata]

/-- Where a status read may be issued and is not relaxed: on port P, on port C in a dispatch, or on port S while port P is
free (R34, R90). -/
theorem statusRead_exact_of_port
    (h : s.cur = .producer ∨ (s.cur = .consumer ∧ s.arch.phase = .dispatch) ∨ (s.cur = .status ∧ s.inProgress = none)) :
    (s.cur ≠ .consumer ∨ s.arch.phase = .dispatch) ∧ s.relaxed = false := by
  rcases h with hcur | ⟨hcur, hphase⟩ | ⟨hcur, hnone⟩
  · exact ⟨.inl (by simp [hcur]), State.relaxed_eq_false (.inl (by simp [hcur]))⟩
  · exact ⟨.inr hphase, State.relaxed_eq_false (.inl (by simp [hcur]))⟩
  · exact ⟨.inl (by simp [hcur]), State.relaxed_eq_false (.inr hnone)⟩

end

/-- Settles O43. -/
theorem readChStatusIsExact : Obligations.ReadChStatusIsExact := by
  unfold Obligations.ReadChStatusIsExact
  intro s ch hport hch
  obtain ⟨hcur, hrelaxed⟩ := statusRead_exact_of_port hport
  rw [exec_readChStatus hcur hch, State.afterRead_of_not_relaxed hrelaxed, State.statusView_of_not_relaxed hrelaxed,
    channelStatus_eq]

/-- Settles O44. -/
theorem readGlobalIsExact : Obligations.ReadGlobalIsExact := by
  unfold Obligations.ReadGlobalIsExact
  intro s hport
  obtain ⟨hcur, hrelaxed⟩ := statusRead_exact_of_port hport
  exact exec_readGlobal_exact hcur hrelaxed (globalStatus_eq s.cfg s.arch)

/-- Settles O45: what a relaxed read shows is one of the candidates, by `State.statusView_mem`. -/
theorem relaxedReadShowsOneBoundaryState : Obligations.RelaxedReadShowsOneBoundaryState := by
  unfold Obligations.RelaxedReadShowsOneBoundaryState
  intro s hcur hbusy
  have hport : s.cur ≠ .consumer ∨ s.arch.phase = .dispatch := .inl (by simp [hcur])
  have hrelaxed : s.relaxed = true := by simp [State.relaxed, hcur, hbusy]
  refine ⟨fun ch hch => ⟨s.statusView, s.statusView_mem, ?_⟩, s.statusView, s.statusView_mem, ?_⟩
  · rw [exec_readChStatus hport hch, State.afterRead_of_relaxed hrelaxed, Answered, hcur]
  · rw [exec_readGlobal hport, State.afterRead_of_relaxed hrelaxed, Answered, hcur]

end Sys2Proof.Machine
end

section
/-! The payload is opaque (00_scope.md section 4): every operation, from the primitives on one channel up to the instructions,
commutes with a change of payloads, for none reads one. -/

namespace Sys2Proof.Machine

/-! ### Entries and channels -/

section
variable (f : Payload → Payload) (c : Channel)

@[simp] theorem Entry.mapPayload_seq (e : Entry) : (e.mapPayload f).seq = e.seq := rfl
@[simp] theorem Channel.mapPayload_queue : (c.mapPayload f).queue = c.queue.map (Entry.mapPayload f) := rfl
@[simp] theorem Channel.mapPayload_nsc : (c.mapPayload f).nsc = c.nsc := rfl
@[simp] theorem Channel.mapPayload_maxSize : (c.mapPayload f).maxSize = c.maxSize := rfl
@[simp] theorem Channel.mapPayload_enabled : (c.mapPayload f).enabled = c.enabled := rfl

@[simp] theorem frontSeq_mapPayload (q : List Entry) : frontSeq (q.map (Entry.mapPayload f)) = frontSeq q := by
  cases q <;> rfl

end

section
variable (f : Payload → Payload) (c : Channel)

theorem Channel.popFront_mapPayload : (c.mapPayload f).popFront = c.popFront.mapPayload f := by
  simp [Channel.popFront, Channel.mapPayload, ← List.map_tail]

theorem Channel.trim_mapPayload : (c.mapPayload f).trim = c.trim.mapPayload f := by
  rw [Channel.trim_spec, Channel.trim_spec]
  simp only [Channel.mapPayload_queue, List.length_map, Channel.mapPayload_maxSize, ← List.map_drop,
    frontSeq_mapPayload]
  split <;> rfl

theorem Channel.prune_mapPayload (T t : Word) : (c.mapPayload f).prune T t = (c.prune T t).mapPayload f := by
  rw [Channel.prune_spec, Channel.prune_spec]
  simp only [Channel.mapPayload_queue, List.dropWhile_map, frontSeq_mapPayload, List.head?_map, Option.elim_map]
  rfl

theorem Channel.append_mapPayload (e : Entry) :
    (c.mapPayload f).append (e.mapPayload f) = (c.append e).mapPayload f := by
  simp [Channel.append, Channel.mapPayload]

theorem Channel.accept_mapPayload (e : Entry) :
    (c.mapPayload f).accept (e.mapPayload f) = (c.accept e).mapPayload f := by
  rw [Channel.accept, Channel.append_mapPayload, Channel.trim_mapPayload, Channel.accept]

theorem Channel.setBound_mapPayload (n : Word) : (c.mapPayload f).setBound n = (c.setBound n).mapPayload f :=
  Channel.trim_mapPayload f { c with maxSize := n }

theorem Channel.setEnable_mapPayload (v : Bool) : (c.mapPayload f).setEnable v = (c.setEnable v).mapPayload f := by
  unfold Channel.setEnable
  rw [Channel.mapPayload_enabled]
  split <;> rfl

theorem Channel.frontIs_mapPayload (t : Word) : (c.mapPayload f).frontIs t = c.frontIs t := by
  rw [Bool.eq_iff_iff, Channel.frontIs_iff_head?, Channel.frontIs_iff_head?, Channel.mapPayload_queue, List.head?_map,
    Option.map_map]
  rfl

end

/-! ### The storage -/

/-- Apply f to every payload of the storage. -/
abbrev Memory.mapPayload (f : Payload → Payload) (m : Memory) : Memory := m.map (Channel.mapPayload f)

section
variable (f : Payload → Payload) (m : Memory)

theorem Memory.chan_mapPayload (i : Nat) :
    Memory.chan (Memory.mapPayload f m) i = (Memory.chan m i).mapPayload f :=
  Memory.chan_map_of_absent m i rfl

/-- A change of one channel that commutes with the change of payloads does so in the storage. -/
theorem Memory.update_mapPayload (i : Nat) {g g' : Channel → Channel}
    (h : ∀ c, g' (c.mapPayload f) = (g c).mapPayload f) :
    Memory.update (Memory.mapPayload f m) i g' = Memory.mapPayload f (Memory.update m i g) := by
  apply List.ext_getElem?
  intro j
  simp only [Memory.update, Memory.mapPayload, List.getElem?_modify, List.getElem?_map]
  cases m[j]? with
  | none => rfl
  | some c =>
    by_cases hij : i = j
    · simp [hij, h]
    · simp [hij]

theorem Memory.map_mapPayload {g : Channel → Channel} (h : ∀ c, g (c.mapPayload f) = (g c).mapPayload f) :
    (Memory.mapPayload f m).map g = Memory.mapPayload f (m.map g) := by
  simp only [Memory.mapPayload, List.map_map, Function.comp_def, h]

theorem Memory.entry_mapPayload (i k : Nat) :
    Memory.entry (Memory.mapPayload f m) i k = (Memory.entry m i k).map (Entry.mapPayload f) := by
  rw [Memory.entry, Memory.chan_mapPayload, Channel.mapPayload_queue, List.getElem?_map, Memory.entry]

/-! ### The alignment pass and the CPI pass -/

theorem targetStep_mapPayload (T : Word) (acc : Option Word) (c : Channel) :
    targetStep T acc (c.mapPayload f) = targetStep T acc c := by
  simp only [targetStep, Channel.mapPayload_enabled, Channel.mapPayload_queue, List.length_map,
    Channel.mapPayload_nsc]
  rfl

theorem computeTarget_mapPayload (T : Word) : computeTarget T (Memory.mapPayload f m) = computeTarget T m := by
  simp only [computeTarget, Memory.mapPayload, List.foldl_map, targetStep_mapPayload]

theorem pruneEnabled_mapPayload (T t : Word) (c : Channel) :
    pruneEnabled T t (c.mapPayload f) = (pruneEnabled T t c).mapPayload f := by
  unfold pruneEnabled
  rw [Channel.mapPayload_enabled, Channel.prune_mapPayload]
  split <;> rfl

theorem allAt_mapPayload (t : Word) : allAt t (Memory.mapPayload f m) = allAt t m := by
  simp [allAt, Memory.mapPayload, Function.comp_def, Channel.frontIs_mapPayload]

/-- The result of a pass over the storage with its payloads changed. -/
abbrev mapResult {α : Type} (f : Payload → Payload) (r : Memory × α) : Memory × α := (Memory.mapPayload f r.1, r.2)

theorem alignPass_mapPayload (T : Word) : alignPass T (Memory.mapPayload f m) = mapResult f (alignPass T m) := by
  cases ht : computeTarget T m with
  | none => rw [alignPass_of_none ht, alignPass_of_none ((computeTarget_mapPayload f m T).trans ht)]
  | some t =>
    have hprune : pruneAll T t (Memory.mapPayload f m) = Memory.mapPayload f (pruneAll T t m) :=
      Memory.map_mapPayload f m (pruneEnabled_mapPayload f T t)
    rw [alignPass_of_some ht, alignPass_of_some ((computeTarget_mapPayload f m T).trans ht), hprune, allAt_mapPayload]

theorem boundary_mapPayload (q : List Entry) (span : Nat) :
    boundary (q.map (Entry.mapPayload f)) span = boundary q span := by
  have hcode : Entry.code ∘ Entry.mapPayload f = Entry.code := rfl
  have hchanges : codeChangesAt (q.map (Entry.mapPayload f)) = codeChangesAt q := by
    funext p
    simp only [codeChangesAt, List.getElem?_map, Option.map_map, hcode]
  rw [boundary, hchanges, boundary]

theorem cpiCheck_mapPayload (T span : Word) (c : Channel) :
    cpiCheck T span (c.mapPayload f) = ((cpiCheck T span c).1, (cpiCheck T span c).2.mapPayload f) := by
  simp only [cpiCheck, Channel.mapPayload_queue, List.length_map, boundary_mapPayload, List.getElem?_map]
  split
  · rfl
  · cases boundary c.queue span.toNat with
    | none => rfl
    | some p =>
      dsimp only
      split
      · rfl
      · cases c.queue[p]? with
        | none => rfl
        | some e => exact congrArg (Prod.mk Verdict.rejected) (Channel.prune_mapPayload f c T e.seq)

theorem cpiChannel_mapPayload (T span : Word) (c : Channel) :
    cpiChannel T span (c.mapPayload f) = (cpiChannel T span c).mapPayload f := by
  unfold cpiChannel
  rw [Channel.mapPayload_enabled, cpiCheck_mapPayload]
  split <;> rfl

theorem cpiVerdict_mapPayload (T span : Word) (c : Channel) :
    cpiVerdict T span (c.mapPayload f) = cpiVerdict T span c := by
  unfold cpiVerdict
  rw [Channel.mapPayload_enabled, cpiCheck_mapPayload]

theorem cpiPass_mapPayload (T span : Word) :
    cpiPass T span (Memory.mapPayload f m) = Memory.mapPayload f (cpiPass T span m) :=
  Memory.map_mapPayload f m (cpiChannel_mapPayload f T span)

theorem cpiAllOk_mapPayload (T span : Word) : cpiAllOk T span (Memory.mapPayload f m) = cpiAllOk T span m := by
  simp only [cpiAllOk, Memory.mapPayload, List.all_map, Function.comp_def, cpiVerdict_mapPayload]

theorem cpiAnyRejected_mapPayload (T span : Word) :
    cpiAnyRejected T span (Memory.mapPayload f m) = cpiAnyRejected T span m := by
  simp only [cpiAnyRejected, Memory.mapPayload, List.any_map, Function.comp_def, cpiVerdict_mapPayload]

theorem cpiAttempt_mapPayload (T span : Word) :
    cpiAttempt T span (Memory.mapPayload f m) = mapResult f (cpiAttempt T span m) := by
  unfold cpiAttempt
  rw [alignPass_mapPayload]
  rcases alignPass T m with ⟨m1, aligned⟩
  cases aligned with
  | false => rfl
  | true => simp only [if_true, cpiPass_mapPayload, cpiAllOk_mapPayload, cpiAnyRejected_mapPayload]

theorem cpiNotify_mapPayload (T span : Word) :
    cpiNotify T span (Memory.mapPayload f m) = mapResult f (cpiNotify T span m) := by
  unfold cpiNotify
  rw [cpiAttempt_mapPayload]
  rcases cpiAttempt T span m with ⟨m1, stop | dispatch | retry⟩
  · rfl
  · rfl
  · simp only [cpiAttempt_mapPayload]
    rcases cpiAttempt T span m1 with ⟨m2, stop | dispatch | retry⟩ <;> rfl

theorem notifyMemory_mapPayload (cfg : Config) (span : Word) :
    notifyMemory cfg span (Memory.mapPayload f m) = mapResult f (notifyMemory cfg span m) := by
  unfold notifyMemory
  cases cfg.mode with
  | align => exact alignPass_mapPayload f m _
  | cpi => exact cpiNotify_mapPayload f m _ span

theorem notify_mapPayload (cfg : Config) (a : Arch) : notify cfg (a.mapPayload f) = (notify cfg a).mapPayload f := by
  have hmemory : notifyMemory cfg (a.mapPayload f).cpiSpan (a.mapPayload f).chans =
      mapResult f (notifyMemory cfg a.cpiSpan a.chans) := notifyMemory_mapPayload f a.chans cfg a.cpiSpan
  rcases hnotify : notifyMemory cfg a.cpiSpan a.chans with ⟨m, dispatches⟩
  rw [hnotify] at hmemory
  cases dispatches with
  | false => rw [notify_of_no_dispatch hmemory, notify_of_no_dispatch hnotify]; rfl
  | true => rw [notify_of_dispatch hmemory, notify_of_dispatch hnotify]; rfl

end

/-! ### The state -/

/-- Apply f to the payload of a response. -/
def Response.mapPayload (f : Payload → Payload) (r : Response) : Response := { r with payload := r.payload.map f }

section
variable (f : Payload → Payload) (s : State)

@[simp] theorem Arch.mapPayload_phase (a : Arch) : (a.mapPayload f).phase = a.phase := rfl
@[simp] theorem State.mapPayload_arch : (s.mapPayload f).arch = s.arch.mapPayload f := rfl

theorem State.respond_mapPayload (p : Port) (r : Response) :
    (s.respond p r).mapPayload f = (s.mapPayload f).respond p (r.mapPayload f) := by
  simp [State.respond, State.mapPayload, Reply.mapPayload, Response.mapPayload]

theorem State.commit_mapPayload (a : Arch) :
    (s.commit a).mapPayload f = (s.mapPayload f).commit (a.mapPayload f) := by
  simp only [State.commit, State.mapPayload, Option.isSome_map, apply_ite (List.map (Arch.mapPayload f)),
    List.map_append, List.map_cons, List.map_nil]

theorem State.stored_mapPayload (m : Memory) (r : Response) :
    (s.stored m r).mapPayload f = (s.mapPayload f).stored (Memory.mapPayload f m) (r.mapPayload f) := by
  rw [State.stored, State.respond_mapPayload, State.commit_mapPayload]
  rfl

theorem State.enterDispatch_mapPayload (i : Instr) (a : Arch) :
    (s.enterDispatch i a).mapPayload f = (s.mapPayload f).enterDispatch (mapInstrPayload f i) (a.mapPayload f) := rfl

theorem State.leaveDispatch_mapPayload : s.leaveDispatch.mapPayload f = (s.mapPayload f).leaveDispatch := rfl

theorem State.relaxed_mapPayload : (s.mapPayload f).relaxed = s.relaxed := by
  have hbusy : (s.mapPayload f).inProgress.isSome = s.inProgress.isSome := Option.isSome_map
  rw [State.relaxed, hbusy]
  rfl

theorem State.afterRead_mapPayload : s.afterRead.mapPayload f = (s.mapPayload f).afterRead := by
  unfold State.afterRead
  rw [State.relaxed_mapPayload]
  rfl

theorem State.statusView_mapPayload : (s.mapPayload f).statusView = s.statusView.mapPayload f := by
  have hcandidates : (s.mapPayload f).candidates = s.candidates.map (Arch.mapPayload f) := by
    simp [State.candidates, State.mapPayload]
  have hdraws : (s.mapPayload f).draws = s.draws := rfl
  unfold State.statusView
  rw [State.relaxed_mapPayload, hcandidates, hdraws, List.length_map, List.getElem?_map, State.mapPayload_arch]
  split
  · exact Option.getD_map _ _ _
  · rfl

theorem State.chan_mapPayload (ch : ChanIndex) : (s.mapPayload f).chan ch = (s.chan ch).mapPayload f :=
  Memory.chan_mapPayload f s.arch.chans ch.toNat

theorem State.withMessage_mapPayload (ch : ChanIndex) (e : Entry) :
    (s.mapPayload f).withMessage ch (e.mapPayload f) = Memory.mapPayload f (s.withMessage ch e) :=
  Memory.update_mapPayload f s.arch.chans ch.toNat fun c => Channel.accept_mapPayload f c e

theorem State.acceptMessage_mapPayload (ch : ChanIndex) (e : Entry) :
    (s.mapPayload f).acceptMessage ch (e.mapPayload f) = (s.acceptMessage ch e).mapPayload f := by
  have harch : (s.mapPayload f).arch.withChans ((s.mapPayload f).withMessage ch (e.mapPayload f)) =
      (s.arch.withChans (s.withMessage ch e)).mapPayload f := by
    rw [State.withMessage_mapPayload]
    rfl
  have hcfg : (s.mapPayload f).cfg = s.cfg := rfl
  rw [State.acceptMessage_eq, State.acceptMessage_eq, harch, hcfg, notify_mapPayload, Arch.mapPayload_phase]
  generalize notify s.cfg (s.arch.withChans (s.withMessage ch e)) = a
  by_cases hphase : a.phase = .dispatch
  · rw [if_pos hphase, if_pos hphase]
    exact (State.enterDispatch_mapPayload f s (.addData ch e.seq e.code e.payload) a).symm
  · rw [if_neg hphase, if_neg hphase, State.respond_mapPayload, State.commit_mapPayload]
    rfl

/-! ### The answers -/

theorem entryResponse_mapPayload (e : Option Entry) :
    entryResponse (e.map (Entry.mapPayload f)) = (entryResponse e).mapPayload f := by
  cases e <;> rfl

theorem channelStatus_mapPayload (a : Arch) (ch : ChanIndex) :
    channelStatus (a.mapPayload f) ch = channelStatus a ch := by
  have hchan : Memory.chan (a.mapPayload f).chans ch.toNat = (Memory.chan a.chans ch.toNat).mapPayload f :=
    Memory.chan_mapPayload f a.chans ch.toNat
  simp [channelStatus, hchan]

/-! ### The instructions -/

/-- The checks read no payload, so a guarded command commutes with the change where its effect does. -/
theorem State.guarded_mapPayload {checks : List (Option Status)} {effect effect' : State}
    (h : effect' = effect.mapPayload f) :
    (s.mapPayload f).guarded checks effect' = mapOutcomePayload f (s.guarded checks effect) := by
  rcases s.guarded_cases checks effect with ⟨e, he, hr⟩ | ⟨he, hr⟩
  · rw [State.guarded_fail he, hr, State.raise, mapOutcomePayload, State.raise, State.respond_mapPayload]
    rfl
  · rw [State.guarded_pass he, hr, h]
    rfl

/-- A command that changes one channel and answers without a payload. -/
theorem State.stored_update_mapPayload (ch : ChanIndex) {g : Channel → Channel} {r : Response}
    (h : ∀ c, g (c.mapPayload f) = (g c).mapPayload f) :
    (s.mapPayload f).stored (Memory.update (s.mapPayload f).arch.chans ch.toNat g) (r.mapPayload f) =
      (s.stored (Memory.update s.arch.chans ch.toNat g) r).mapPayload f := by
  rw [State.stored_mapPayload, ← Memory.update_mapPayload f _ _ h]
  rfl

theorem State.stored_map_mapPayload {g : Channel → Channel} {r : Response}
    (h : ∀ c, g (c.mapPayload f) = (g c).mapPayload f) :
    (s.mapPayload f).stored ((s.mapPayload f).arch.chans.map g) (r.mapPayload f) =
      (s.stored (s.arch.chans.map g) r).mapPayload f := by
  rw [State.stored_mapPayload, ← Memory.map_mapPayload f _ h]
  rfl

theorem execAddData_mapPayload (ch : ChanIndex) (seq code : Word) (payload : Payload) :
    execAddData ch seq code (f payload) (s.mapPayload f) = mapOutcomePayload f (execAddData ch seq code payload s) := by
  refine State.guarded_mapPayload f s ?_
  rw [State.chan_mapPayload, Channel.mapPayload_enabled]
  split
  · exact State.acceptMessage_mapPayload f s ch ⟨seq, code, payload⟩
  · exact (State.respond_mapPayload f s s.cur okResponse).symm

theorem execPopFront_mapPayload (ch : ChanIndex) :
    execPopFront ch (s.mapPayload f) = mapOutcomePayload f (execPopFront ch s) := by
  refine State.guarded_mapPayload f s ?_
  rw [State.chan_mapPayload, Channel.mapPayload_queue]
  cases (s.chan ch).queue with
  | nil => exact (State.respond_mapPayload f s s.cur (entryResponse none)).symm
  | cons e q =>
    exact State.stored_update_mapPayload f s ch (r := entryResponse (some e)) (Channel.popFront_mapPayload f)

theorem execPeek_mapPayload (ch : ChanIndex) (pos : Word) :
    execPeek ch pos (s.mapPayload f) = mapOutcomePayload f (execPeek ch pos s) := by
  refine State.guarded_mapPayload f s ?_
  have hentry : (s.mapPayload f).entry ch.toNat pos.toNat = (s.entry ch.toNat pos.toNat).map (Entry.mapPayload f) :=
    Memory.entry_mapPayload f s.arch.chans _ _
  rw [hentry, entryResponse_mapPayload, State.respond_mapPayload]
  rfl

theorem execPrune_mapPayload (ch : ChanIndex) (target : Word) :
    execPrune ch target (s.mapPayload f) = mapOutcomePayload f (execPrune ch target s) := by
  refine State.guarded_mapPayload f s ?_
  have hcfg : (s.mapPayload f).cfg = s.cfg := rfl
  rw [State.chan_mapPayload, hcfg, Channel.prune_mapPayload, Channel.frontIs_mapPayload]
  exact State.stored_update_mapPayload f s ch (r := bitResponse _) fun c =>
    Channel.prune_mapPayload f c s.cfg.wrapThreshold target

theorem execReadChStatus_mapPayload (ch : ChanIndex) :
    execReadChStatus ch (s.mapPayload f) = mapOutcomePayload f (execReadChStatus ch s) := by
  refine State.guarded_mapPayload f s ?_
  rw [State.statusView_mapPayload, channelStatus_mapPayload, State.respond_mapPayload, State.afterRead_mapPayload]
  rfl

theorem execReadGlobal_mapPayload :
    execReadGlobal (s.mapPayload f) = mapOutcomePayload f (execReadGlobal s) := by
  refine State.guarded_mapPayload f s ?_
  rw [State.statusView_mapPayload, State.respond_mapPayload, State.afterRead_mapPayload]
  rfl

theorem execSetCpiSpan_mapPayload (n : Word) :
    execSetCpiSpan n (s.mapPayload f) = mapOutcomePayload f (execSetCpiSpan n s) := by
  refine State.guarded_mapPayload f s ?_
  rw [State.respond_mapPayload, State.commit_mapPayload]
  rfl

theorem execDone_mapPayload (v : Bool) : execDone v (s.mapPayload f) = mapOutcomePayload f (execDone v s) := by
  refine State.guarded_mapPayload f s ?_
  rw [State.respond_mapPayload, State.respond_mapPayload, State.leaveDispatch_mapPayload]
  rfl

end

/-- Settles O58, instruction by instruction. -/
theorem payloadIsOpaque : Obligations.PayloadIsOpaque := by
  unfold Obligations.PayloadIsOpaque
  intro f i s
  cases i with
  | addData ch seq code payload => exact execAddData_mapPayload f s ch seq code payload
  | popFront ch => exact execPopFront_mapPayload f s ch
  | peek ch pos => exact execPeek_mapPayload f s ch pos
  | prune ch target => exact execPrune_mapPayload f s ch target
  | setMaxSize ch n =>
    exact State.guarded_mapPayload f s
      (State.stored_update_mapPayload f s ch (r := okResponse) fun c => Channel.setBound_mapPayload f c n)
  | setMaxSizeAll n =>
    exact State.guarded_mapPayload f s
      (State.stored_map_mapPayload f s (r := okResponse) fun c => Channel.setBound_mapPayload f c n)
  | setEnabled ch v =>
    exact State.guarded_mapPayload f s
      (State.stored_update_mapPayload f s ch (r := okResponse) fun c => Channel.setEnable_mapPayload f c v)
  | setEnabledAll v =>
    exact State.guarded_mapPayload f s
      (State.stored_map_mapPayload f s (r := okResponse) fun c => Channel.setEnable_mapPayload f c v)
  | setCpiSpan n => exact execSetCpiSpan_mapPayload f s n
  | readChStatus ch => exact execReadChStatus_mapPayload f s ch
  | readGlobal => exact execReadGlobal_mapPayload f s
  | done v => exact execDone_mapPayload f s v

end Sys2Proof.Machine
end
